-- ==== Sys2Proof/Word.lean ====
section
/-! DEFINITION. The words of the block: bytes (10_state.md R10) and 48-bit command words (30_encoding.md R45). -/

namespace Sys2Proof

/-- One byte of the Color Buffer, of the gamma table, or of a command's channel field (10_state.md R10). -/
abbrev Byte := BitVec 8

/-- One command word `CW[47:0]`, bit 0 the least significant (30_encoding.md R45). -/
abbrev CommandWord := BitVec 48

end Sys2Proof
end

