-- ==== Sys2Proof/Config.lean ====
section
/-! DEFINITION. The implementation parameters (00_scope.md R6), the constraints a configuration must meet (R7, R8)
and the one free value the model draws on (93_implementation_defined.md U1, U2, U13). -/

namespace Sys2Proof

/-- The parameters of one instance (00_scope.md R6). `PW` defaults to 16 (92_eei_decisions.md D7). -/
structure Params where
  /-- `N`, the number of LEDs. -/
  n : Nat
  /-- `GAP`, the number of zero entries that end a frame. -/
  gap : Nat
  /-- `T0H`, the pulse width of a 0 bit. -/
  t0h : Nat
  /-- `T1H`, the pulse width of a 1 bit. -/
  t1h : Nat
  /-- `PERIOD`, timer ticks in one PWM period. -/
  period : Nat
  /-- `PW`, the width in bits of an entry and of `CCR`. -/
  pw : Nat := 16
deriving DecidableEq, Repr

namespace Params

/-- `24*N`, the number of data slots (10_state.md R12). -/
def dataLen (p : Params) : Nat := 24 * p.n

/-- `L = 24*N + GAP`, the length of the Pulse Buffer (00_scope.md R6). -/
def len (p : Params) : Nat := 24 * p.n + p.gap

/-- `1 <= N <= 2^(IDXW-1)` with `IDXW = 16` (00_scope.md R8). -/
abbrev StripLengthOk (p : Params) : Prop := 1 ≤ p.n ∧ p.n ≤ 32768

/-- `GAP >= 1` (00_scope.md R8). -/
abbrev GapOk (p : Params) : Prop := 1 ≤ p.gap

/-- `1 <= T0H < T1H < PERIOD` (00_scope.md R7 and R8). -/
abbrev PulsesOk (p : Params) : Prop := 1 ≤ p.t0h ∧ p.t0h < p.t1h ∧ p.t1h < p.period

/-- `PERIOD <= 2^PW` (00_scope.md R8). -/
abbrev WidthOk (p : Params) : Prop := p.period ≤ 2 ^ p.pw

/-- `L <= 2^32 - 1` (00_scope.md R8). -/
abbrev LengthOk (p : Params) : Prop := 24 * p.n + p.gap ≤ 4294967295

/-- All the constraints of 00_scope.md R7 and R8 that a model without durations can check (70_reset_and_hazards.md R120). -/
abbrev Valid (p : Params) : Prop :=
  p.StripLengthOk ∧ p.GapOk ∧ p.PulsesOk ∧ p.WidthOk ∧ p.LengthOk

end Params

/-- A configuration the spec gives behaviour to: parameters with the proof of their constraints.
A configuration that breaks one is refused (00_scope.md R8, 93 item U4): it cannot be built. -/
structure Config extends Params where
  /-- The constraints of 00_scope.md R7 and R8. -/
  valid : toParams.Valid
deriving DecidableEq, Repr

/-- The check made when a model is built (70_reset_and_hazards.md R120): the configuration, or a refusal. -/
def Config.build (p : Params) : Option Config :=
  if h : p.Valid then some ⟨p, h⟩ else none

/-- `REF3`, the reference configuration of the test vectors (00_scope.md R9). -/
def Config.ref3 : Config :=
  ⟨⟨3, 50, 30, 60, 90, 16⟩, by decide⟩

/-- The `k`-th free choice the spec leaves open once the oracle stream of the state is used up: which agent moves first
(60_exceptions.md R106, 42_refresh.md R79, 93 item U13) and which of two values a torn read returns (43_sequencer.md R90,
93 item U1). It has no body: nothing can be proved of its values (notes/assumptions/6.md and 7.md). -/
opaque Config.freeChoice : Nat → Bool

end Sys2Proof
end

