-- ==== Sys2Proof/Syntax.lean ====
section
/-! DEFINITION. The two commands of the block (30_encoding.md R49), the items of a host's command list with its two
directives (R56), and the lines of the assembler text (R55). -/

namespace Sys2Proof

/-- The commands of spec/opcode_table.json, one constructor per row, operands as the command word's fields hold them
(30_encoding.md R46 to R48). Every value of every field is legal (R49), so every term is well formed. -/
inductive Instr where
  /-- `SETCOLOR idx, red, green, blue` (41_setcolor.md R67). -/
  | setcolor (idx : BitVec 16) (red green blue : Byte)
  /-- `REFRESH` (42_refresh.md R75). -/
  | refresh
deriving DecidableEq, Repr

/-- One item of the host's command list: a command word, or a directive to the host or the test bench, which the encoder
never sees (30_encoding.md R56). -/
inductive HostItem where
  /-- A word to present on the command port (30_encoding.md R45). -/
  | command (w : CommandWord)
  /-- `WAITIDLE`: issue nothing further until `BUSY` reads 0. -/
  | waitIdle
  /-- `TICKS n`: exactly `n` ticks occur before the next command is issued. -/
  | ticks (n : Nat)
deriving DecidableEq, Repr

/-- A line of assembler text after parsing, operands as the integers written (30_encoding.md R55, R56). -/
inductive AsmLine where
  | setcolor (idx red green blue : Int)
  | refresh
  | waitIdle
  | ticks (n : Nat)
deriving DecidableEq, Repr

end Sys2Proof
end

