-- ==== Sys2Proof/Decode.lean ====
section
/-! DEFINITION. The command word's fields, the decoder, total on 48-bit words and refusing reserved words by name
(30_encoding.md R45 to R51), and the encoder written from the same formats. -/

namespace Sys2Proof

/-- Why a word is reserved (30_encoding.md R50). -/
inductive Reserved where
  /-- The opcode byte is neither 0x01 nor 0x02. -/
  | opcode (op : Byte)
  /-- The opcode byte is 0x02 and `CW[39:0]` is not 0. -/
  | refreshField (field : BitVec 40)
deriving DecidableEq, Repr

/-- What the decoder returns (30_encoding.md R51): a command, or "reserved". -/
inductive Decoded where
  | command (i : Instr)
  | reserved (why : Reserved)
deriving DecidableEq, Repr

/-- `CW[47:40]` (30_encoding.md R45). -/
def opField (w : CommandWord) : Byte := w.extractLsb' 40 8

/-- `CW[39:24]` of format S (30_encoding.md R46). -/
def idxField (w : CommandWord) : BitVec 16 := w.extractLsb' 24 16

/-- `CW[23:16]` of format S (30_encoding.md R46). -/
def redField (w : CommandWord) : Byte := w.extractLsb' 16 8

/-- `CW[15:8]` of format S (30_encoding.md R46). -/
def greenField (w : CommandWord) : Byte := w.extractLsb' 8 8

/-- `CW[7:0]` of format S (30_encoding.md R46). -/
def blueField (w : CommandWord) : Byte := w.extractLsb' 0 8

/-- `CW[39:0]` of format Z (30_encoding.md R47). -/
def zeroField (w : CommandWord) : BitVec 40 := w.extractLsb' 0 40

/-- The opcode map (30_encoding.md R49): by the top byte, then, for REFRESH, by the rest. -/
def decode (w : CommandWord) : Decoded :=
  if opField w = 0x01#8 then
    .command (.setcolor (idxField w) (redField w) (greenField w) (blueField w))
  else if opField w = 0x02#8 then
    if zeroField w = 0#40 then .command .refresh else .reserved (.refreshField (zeroField w))
  else
    .reserved (.opcode (opField w))

/-- The word of a command: formats S and Z, fields from the most significant end (30_encoding.md R46, R47). -/
def encode : Instr → CommandWord
  | .setcolor idx red green blue => (0x01#8 ++ idx ++ red ++ green ++ blue : BitVec (8 + 16 + 8 + 8 + 8))
  | .refresh => (0x02#8 ++ 0#40 : BitVec (8 + 40))

/-- The `match` column of a command's row (30_encoding.md R49). -/
def rowMatch : Instr → CommandWord
  | .setcolor _ _ _ _ => 0x010000000000#48
  | .refresh => 0x020000000000#48

/-- The `mask` column of a command's row (30_encoding.md R49). -/
def rowMask : Instr → CommandWord
  | .setcolor _ _ _ _ => 0xFF0000000000#48
  | .refresh => 0xFFFFFFFFFFFF#48

/-- The command word whose low `nbits` bits are `w` and whose other bits are 0. A command is one 48-bit word (30_encoding.md
R45), bit 0 its least significant bit, so the table's numbering is the word's own. -/
def tableWord (nbits w : Nat) : CommandWord := BitVec.ofNat 48 (w % 2 ^ nbits)

/-- The command the decoder reads from a word numbered as spec/opcode_table.json numbers it, none where it is reserved or
wider than a command word. -/
def decodeTableWord (nbits w : Nat) : Option Instr :=
  if nbits ≤ 48 then
    match decode (tableWord nbits w) with
    | .command i => some i
    | .reserved _ => none
  else none

end Sys2Proof
end

