-- ==== Sys2Proof/Machine/State.lean ====
section
/-! DEFINITION. The state of the block (10_state.md), its faults and refusals, and the state after reset
(70_reset_and_hazards.md R116). -/

namespace Sys2Proof.Machine

/-- Why the machine stops with a fault. -/
inductive Fault where
  /-- Raised by every command, tick and step while `HALTED = 1`: the stuck state of a failed start-up, in which no step is
  enabled (60_exceptions.md R103, 93 item U9). Safe: the spec itself lets nothing happen there. -/
  | halted
  /-- Raised by a tick with `BUSY = 1` whose `POS` is not an address of the Pulse Buffer. No run reaches such a state: an
  address outside `0..L-1` cannot be formed (20_memory.md R31). Safe: the machine stops where the spec has no behaviour. -/
  | noSuchLocation (address : Nat)
deriving DecidableEq, Repr

/-- Why the model gives no step. -/
inductive Refusal where
  /-- Raised only by an arm of `exec` for an instruction that has no meaning yet (there is none). Safe. -/
  | notModelled (mnemonic : String)
  /-- Raised when the host presents a reserved command word, for which the step relation has no step (30_encoding.md R50,
  93 item U3). Safe. -/
  | reservedWord (why : Reserved)
deriving DecidableEq, Repr

/-- The state of one instance. Where a field is the model's own, its line says so. -/
structure State where
  /-- The parameters of the instance, constant for its life (10_state.md R19). -/
  cfg : Config
  /-- `CB`, the Color Buffer (10_state.md R10): cells of address and byte, an unlisted byte is 0. -/
  cb : List Host.Cell
  /-- `PB`, the Pulse Buffer (10_state.md R12): cells of address and entry, an unlisted entry is 0. -/
  pb : List (Nat × Nat)
  /-- `BUSY` (10_state.md R15). -/
  busy : Bool
  /-- `POS`, the sequencer position (10_state.md R16). -/
  pos : Nat
  /-- `CCR`, the compare register (10_state.md R17). -/
  ccr : Nat
  /-- `OUT`, the output trace, oldest first (10_state.md R18). -/
  out : List Nat
  /-- `TORN`, the sticky mark (10_state.md R21). -/
  torn : Bool
  /-- `TEAR`, the validity mark of `PBOLD` (10_state.md R22). -/
  tear : Bool
  /-- `PBOLD`, the ghost copy of the Pulse Buffer (10_state.md R22). -/
  pbold : List (Nat × Nat)
  /-- `HALTED` (10_state.md R23). -/
  halted : Bool
  /-- The model's own: the encoder stands between the two phases of a REFRESH accepted with `BUSY = 1` (42_refresh.md R75). -/
  starting : Bool
  /-- The model's own: what the host has still to issue, the next item first (30_encoding.md R45, R56). -/
  host : List HostItem
  /-- The model's own: the oracle stream from which free choices are taken first (93 item U1). -/
  choices : List Bool
  /-- The model's own: how many free choices have been taken, the argument of `Config.freeChoice`. -/
  drawn : Nat
deriving DecidableEq, Repr

/-- The state after the reset of an instance with configuration `c`, `INIT_OK` sampled as `initOk`
(70_reset_and_hazards.md R116). The host's list and the oracle stream are empty (notes/assumptions/3.md). -/
def State.resetWith (c : Config) (initOk : Bool) : State where
  cfg := c
  cb := []
  pb := []
  busy := false
  pos := 0
  ccr := 0
  out := []
  torn := false
  tear := false
  pbold := []
  halted := !initOk
  starting := false
  host := []
  choices := []
  drawn := 0

/-- The reset state of the reference configuration `REF3`, whose `INIT_OK` is true (00_scope.md R9). That this instance
stands for the machine is the model's choice (notes/assumptions/1.md). -/
def State.reset : State := State.resetWith Config.ref3 true

end Sys2Proof.Machine
end

