-- ==== Sys2Proof/Machine/Flags.lean ====
section
/-! DEFINITION. The one flag of the block, BUSY (10_state.md R15), and the marks TORN and TEAR (R21, R22).
There are no condition codes: no command computes a flag from a result (R15). -/

namespace Sys2Proof.Machine

/-- A start request that is honoured: `BUSY <- 1`, `POS <- 0` (42_refresh.md R78). -/
def raiseBusy (s : State) : State := { s with busy := true, pos := 0 }

/-- The end of a transfer: `BUSY <- 0`, `TEAR <- 0` (43_sequencer.md R89). -/
def endTransfer (s : State) : State := { s with busy := false, tear := false }

/-- `TEAR <- 0` (42_refresh.md R78). -/
def clearTear (s : State) : State := { s with tear := false }

/-- `PBOLD <- PB`, `TEAR <- 1`, `TORN <- 1` (42_refresh.md R79). -/
def markTorn (s : State) : State := { s with pbold := s.pb, tear := true, torn := true }

/-- The encoder stands between the phases of a REFRESH (42_refresh.md R75), or has left that place. -/
def setStarting (s : State) (b : Bool) : State := { s with starting := b }

end Sys2Proof.Machine
end

