-- ==== Sys2Proof/Machine/Ops.lean ====
section
/-! DEFINITION. Named operations over the two buffers, the free choice, and the halt, the block's only trap-like event
(20_memory.md R30, R31, 00_scope.md R130, 60_exceptions.md R103). -/

namespace Sys2Proof.Machine

/-- The value at address `a` of a list of cells, `z` where it lists none. -/
def readCell {α : Type} (z : α) : List (Nat × α) → Nat → α
  | [], _ => z
  | (c, u) :: m, a => if c = a then u else readCell z m a

/-- A cell placed before the first cell of a higher address. -/
def insertCell {α : Type} : List (Nat × α) → Nat → α → List (Nat × α)
  | [], a, v => [(a, v)]
  | (c, u) :: m, a, v => if c < a then (c, u) :: insertCell m a v else (a, v) :: (c, u) :: m

/-- The cells at other addresses than `a`. -/
def eraseCell {α : Type} : List (Nat × α) → Nat → List (Nat × α)
  | [], _ => []
  | (c, u) :: m, a => if c = a then eraseCell m a else (c, u) :: eraseCell m a

/-- Writing `v` at `a`: the value an unlisted address reads as leaves no cell. -/
def writeCell {α : Type} [DecidableEq α] (z : α) (m : List (Nat × α)) (a : Nat) (v : α) : List (Nat × α) :=
  if v = z then eraseCell m a else insertCell (eraseCell m a) a v

/-- Writing a list of values at consecutive ascending addresses from `a` on. -/
def writeRun {α : Type} [DecidableEq α] (z : α) : List (Nat × α) → Nat → List α → List (Nat × α)
  | m, _, [] => m
  | m, a, v :: vs => writeRun z (writeCell z m a v) (a + 1) vs

/-- The canonical form: addresses strictly rising, no cell holding what an unlisted address reads as. -/
def cellsWf {α : Type} [DecidableEq α] (z : α) : List (Nat × α) → Bool
  | [] => true
  | (a, v) :: m => decide (v ≠ z) && m.all (fun c => decide (a < c.1)) && cellsWf z m

/-- Every listed address lies below `bound`. -/
def cellsBelow {α : Type} (bound : Nat) (m : List (Nat × α)) : Bool :=
  m.all (fun c => decide (c.1 < bound))

/-- `CB[a]` (00_scope.md R130). -/
def cbRead (s : State) (a : Nat) : Byte := readCell 0#8 s.cb a

/-- `CB[a] <- v` (00_scope.md R130). -/
def cbWrite (s : State) (a : Nat) (v : Byte) : State := { s with cb := writeCell 0#8 s.cb a v }

/-- `PB[k]` (00_scope.md R130). -/
def pbRead (s : State) (k : Nat) : Nat := readCell 0 s.pb k

/-- `PBOLD[k]` (10_state.md R22). -/
def pboldRead (s : State) (k : Nat) : Nat := readCell 0 s.pbold k

/-- `PB[k] <- vs[k]` for every `k` below the length of `vs`, ascending (42_refresh.md R76, R77). -/
def pbFill (s : State) (vs : List Nat) : State := { s with pb := writeRun 0 s.pb 0 vs }

/-- The bytes of the Color Buffer in address order, as REFRESH reads them (20_memory.md R30). -/
def cbBytes (s : State) : List Byte := (List.range (3 * s.cfg.n)).map (cbRead s)

/-- The entries of the Pulse Buffer in address order. -/
def pbEntries (s : State) : List Nat := (List.range s.cfg.len).map (pbRead s)

/-- A free choice: the next bit of the oracle stream, the opaque one where the stream is used up (00_scope.md R130 `draw`). -/
def nextChoice (s : State) : Bool := s.choices.headD (Config.freeChoice s.drawn)

/-- The state after one free choice has been taken. -/
def dropChoice (s : State) : State := { s with choices := s.choices.tail, drawn := s.drawn + 1 }

/-- `raise Halt` (60_exceptions.md R103): nothing is saved, no handler runs, and there is no return (R104). -/
def raiseHalt (s : State) : State := { s with halted := true }

/-- While `HALTED = 1` no command is executed and no tick has effect (60_exceptions.md R103). -/
def unlessHalted (s : State) (run : Host.Outcome State Fault Refusal) : Host.Outcome State Fault Refusal :=
  if s.halted then .fault .halted else run

end Sys2Proof.Machine
end

