-- ==== Sys2Proof/Machine/Frame.lean ====
section
/-! DEFINITION. The pulse frame: slots, symbols and the frame of a Color Buffer (30_encoding.md R52 to R54). -/

namespace Sys2Proof.Machine

/-- `slot(i, c, b)`: where bit `b` of stored byte `c` of LED `i` stands in the Pulse Buffer (30_encoding.md R52). -/
def slot (i c b : Nat) : Nat := 24 * i + 8 * c + (7 - b)

/-- The entry that carries a bit: `T1H` for a 1, `T0H` for a 0 (30_encoding.md R53, R54). -/
def pulse (c : Config) (bit : Bool) : Nat := if bit then c.t1h else c.t0h

/-- The bits of a byte from bit 7 down to bit 0 (30_encoding.md R52). -/
def bitsMsbFirst (v : Byte) : List Bool :=
  [v.getLsbD 7, v.getLsbD 6, v.getLsbD 5, v.getLsbD 4, v.getLsbD 3, v.getLsbD 2, v.getLsbD 1, v.getLsbD 0]

/-- The data slots of a list of stored bytes (42_refresh.md R76). -/
def dataSlots (c : Config) (bytes : List Byte) : List Nat :=
  bytes.flatMap (fun v => (bitsMsbFirst v).map (pulse c))

/-- `frame(CB)`: the data slots, then `GAP` zero entries (30_encoding.md R54). -/
def frame (c : Config) (bytes : List Byte) : List Nat :=
  dataSlots c bytes ++ List.replicate c.gap 0

/-- What a slot's entry means, where it is a symbol at all (30_encoding.md R53). -/
inductive Symbol where
  | one
  | zero
  | gap
deriving DecidableEq, Repr

/-- Reading an entry back as a symbol (30_encoding.md R53). -/
def symbolOf (c : Config) (entry : Nat) : Option Symbol :=
  if entry = c.t1h then some .one
  else if entry = c.t0h then some .zero
  else if entry = 0 then some .gap
  else none

end Sys2Proof.Machine
end

