-- ==== Sys2Proof/Machine/Refresh.lean ====
section
/-! DEFINITION. REFRESH and its two phases (42_refresh.md). -/

namespace Sys2Proof.Machine

/-- Phase `build`: with a transfer in flight the old buffer is kept and the marks are set (42_refresh.md R79); then every
entry of `PB` is written from the Color Buffer (R76, R77). -/
def buildPhase (s : State) : State :=
  pbFill (if s.busy then markTorn s else s) (frame s.cfg (cbBytes s))

/-- Phase `start`: the start request is honoured with `BUSY = 0` and dropped with `BUSY = 1`; `TEAR` is cleared
(42_refresh.md R78). The command then ends. -/
def startPhase (s : State) : State :=
  setStarting (clearTear (if s.busy then s else raiseBusy s)) false

/-- REFRESH (42_refresh.md R75): one indivisible step when it is accepted with `BUSY = 0`; with `BUSY = 1` the build phase
runs and the encoder stands before the start phase, which the step takes up later (R79). Not executed while `HALTED = 1`. -/
def execRefresh (s : State) : Host.Outcome State Fault Refusal :=
  unlessHalted s <|
    .next (if s.busy then setStarting (buildPhase s) true else startPhase (buildPhase s))

end Sys2Proof.Machine
end

