-- ==== Sys2Proof/Machine/Operands.lean ====
section
/-! DEFINITION. Operand assembly and the addresses formed from operands (30_encoding.md R48, R57). -/

namespace Sys2Proof.Machine

/-- `i = sext_16(idx)` (30_encoding.md R48). -/
def ledIndex (idx : BitVec 16) : Int := idx.toInt

/-- The validity test of SETCOLOR, `0 <= i and i < N`, over the integers (41_setcolor.md R68). -/
def validIndex (c : Config) (idx : BitVec 16) : Bool :=
  decide (0 ≤ ledIndex idx) && decide (ledIndex idx < (c.n : Int))

/-- The address `3*i` of an LED's first byte, for a valid index `i` (10_state.md R10). -/
def ledBase (idx : BitVec 16) : Nat := 3 * (ledIndex idx).toNat

end Sys2Proof.Machine
end

