-- ==== Sys2Proof/Machine/Setcolor.lean ====
section
/-! DEFINITION. SETCOLOR (41_setcolor.md). -/

namespace Sys2Proof.Machine

/-- The three byte writes of an accepted SETCOLOR, in green, red, blue order from address `a` (41_setcolor.md R68). -/
def storeLed (s : State) (a : Nat) (red green blue : Byte) : State :=
  cbWrite (cbWrite (cbWrite s a (gamma green)) (a + 1) (gamma red)) (a + 2) (gamma blue)

/-- SETCOLOR (41_setcolor.md R68): the corrected channels into the LED's three bytes; an index outside `0..N-1` changes
nothing (R69, R70). Not executed while `HALTED = 1` (60_exceptions.md R103). -/
def execSetcolor (idx : BitVec 16) (red green blue : Byte) (s : State) : Host.Outcome State Fault Refusal :=
  unlessHalted s <|
    .next (if validIndex s.cfg idx then storeLed s (ledBase idx) red green blue else s)

end Sys2Proof.Machine
end

