-- ==== Sys2Proof/Machine/Dispatch.lean ====
section
/-! DEFINITION. One arm per command of spec/opcode_table.json (30_encoding.md R49). -/

namespace Sys2Proof.Machine

def exec (i : Instr) (s : State) : Host.Outcome State Fault Refusal :=
  match i with
  | .setcolor idx red green blue => Sys2Proof.Machine.execSetcolor idx red green blue s
  | .refresh => Sys2Proof.Machine.execRefresh s

end Sys2Proof.Machine
end

