-- ==== Sys2Proof/Machine/Issue.lean ====
section
/-! DEFINITION. The command port: a word is decoded and executed before the next is presented (30_encoding.md R45). -/

namespace Sys2Proof.Machine

/-- The encoder takes a word from the port: a command is executed, a reserved word has no step (30_encoding.md R50). -/
def issue (w : CommandWord) (s : State) : Host.Outcome State Fault Refusal :=
  match decode w with
  | .command i => exec i s
  | .reserved why => .refused (.reservedWord why)

/-- The state in which the host presents `w` next with no tick before it: the directive `TICKS 0` and the word stand at the
head of its list, and no REFRESH is under way (30_encoding.md R56, 42_refresh.md R75). -/
def presentNext (s : State) (w : CommandWord) : State :=
  { s with host := .ticks 0 :: .command w :: s.host, starting := false }

end Sys2Proof.Machine
end

