-- ==== Sys2Proof/Machine/Schedule.lean ====
section
/-! DEFINITION. Which event comes next: a tick, a phase of the encoder, or the host's next item (60_exceptions.md R106,
42_refresh.md R79, 30_encoding.md R56). Where the spec fixes no order the choice is free (93 items U2 and U13). -/

namespace Sys2Proof.Machine

/-- The next event of a run, with the state in which it takes place. -/
inductive Event where
  /-- `HALTED = 1`: no event is enabled (60_exceptions.md R103). -/
  | stuck
  /-- A boundary between two PWM periods (43_sequencer.md R88). -/
  | tick (s : State)
  /-- The start phase of the REFRESH under way (42_refresh.md R78). -/
  | start (s : State)
  /-- A directive of the host's list is done with; the block takes no part (30_encoding.md R56). -/
  | bench (s : State)
  /-- The host presents a word on the command port (30_encoding.md R45). -/
  | issue (w : CommandWord) (s : State)

/-- With `BUSY = 1` a tick or the encoder's event may come first, and either is admitted (60_exceptions.md R106); with
`BUSY = 0` a tick would change nothing (43_sequencer.md R92), and the encoder's event is taken. -/
def tickOr (s : State) (other : State → Event) : Event :=
  if s.busy then
    if nextChoice s then .tick (dropChoice s) else other (dropChoice s)
  else other s

/-- The event of the host's list, the encoder standing idle. After the last command only the sequencer acts, as long as a
transfer is in flight (43_sequencer.md R91). `WAITIDLE` lets ticks pass until `BUSY` reads 0; `TICKS n` lets exactly `n`
pass before the next command, which then takes no free tick before it (30_encoding.md R56, notes/assumptions/9.md).
DESIGN CHOICE: of several directives before one command each is done with before the next is begun, so that the ticks of two
`TICKS` add up; R56 is silent on this (notes/assumptions/21.md). -/
def hostEvent (s : State) : Event :=
  match s.host with
  | [] => .tick s
  | .command w :: rest => tickOr s (fun t => .issue w { t with host := rest })
  | .waitIdle :: rest => if s.busy then .tick s else .bench { s with host := rest }
  | .ticks (n + 1) :: rest => .tick { s with host := .ticks n :: rest }
  | .ticks 0 :: .command w :: rest => .issue w { s with host := rest }
  | .ticks 0 :: rest => .bench { s with host := rest }

/-- The next event. Between the two phases of a REFRESH the host can issue nothing, and any number of ticks may fall there
while a transfer is in flight (42_refresh.md R75, R79). -/
def nextEvent (s : State) : Event :=
  if s.halted then .stuck
  else if s.starting then tickOr s .start
  else hostEvent s

end Sys2Proof.Machine
end

