-- ==== Sys2Proof/Machine/Sequencer.lean ====
section
/-! DEFINITION. The sequencer: the TICK step (43_sequencer.md R87 to R92). -/

namespace Sys2Proof.Machine

/-- The entry a tick reads: `PB[POS]`, and while `TEAR = 1` the free choice of `PBOLD[POS]` and `PB[POS]`
(43_sequencer.md R88, R90). -/
def tickValue (s : State) : Nat :=
  if s.tear then (if nextChoice s then pboldRead s s.pos else pbRead s s.pos) else pbRead s s.pos

/-- `CCR <- v`, `OUT <- OUT ++ [v]`, `POS <- POS + 1` (43_sequencer.md R88). -/
def deliver (s : State) (v : Nat) : State :=
  { s with ccr := v, out := s.out ++ [v], pos := s.pos + 1 }

/-- `if POS = L then` the transfer ends (43_sequencer.md R89). -/
def finishAtEnd (s : State) : State := if s.pos = s.cfg.len then endTransfer s else s

/-- One TICK while active with `POS` inside the buffer (43_sequencer.md R88, R90): a torn read takes a free choice. -/
def activeTick (s : State) : State :=
  finishAtEnd (deliver (if s.tear then dropChoice s else s) (tickValue s))

/-- TICK: active (43_sequencer.md R88 to R90) or idle, where it changes nothing (R92). No tick has effect while
`HALTED = 1`. A position outside the buffer is no address (20_memory.md R31). -/
def tick (s : State) : Host.Outcome State Fault Refusal :=
  unlessHalted s <|
    if s.busy then
      if s.pos < s.cfg.len then .next (activeTick s) else .fault (.noSuchLocation s.pos)
    else .next s

/-- `n` ticks in a row, stopping where one stops. -/
def tickN : Nat → State → Host.Outcome State Fault Refusal
  | 0, s => .next s
  | n + 1, s =>
    match tick s with
    | .next t => tickN n t
    | .fault f => .fault f
    | .refused r => .refused r

end Sys2Proof.Machine
end

