-- ==== Sys2Proof/Machine/Step.lean ====
section
/-! DEFINITION. One step of the block: one event (00_scope.md R5), and the placing of a word where the next step takes it. -/

namespace Sys2Proof.Machine

/-- One step: the next event takes place. -/
def step (s : State) : Host.Outcome State Fault Refusal :=
  match nextEvent s with
  | .stuck => .fault .halted
  | .tick t => tick t
  | .start t => .next (startPhase t)
  | .bench t => .next t
  | .issue w t => issue w t

/-- `s` with the word of `nbits` bits `w` on the command port, so that the next step takes exactly it
(notes/assumptions/5.md). -/
def State.withFetchWord (s : State) (nbits w : Nat) : State := presentNext s (tableWord nbits w)

end Sys2Proof.Machine
end

