-- ==== Sys2Proof/WellFormed.lean ====
section
/-! DEFINITION. Which assembler lines are commands: the operand ranges of 30_encoding.md R55.
An `Instr` needs no check, its fields carry their widths (R48). The checks on a configuration stand in Config.lean. -/

namespace Sys2Proof

/-- `idx` is from -32768 to 32767 (30_encoding.md R55). -/
def AsmLine.indexOk (i : Int) : Bool := decide (-32768 ≤ i) && decide (i ≤ 32767)

/-- A channel is from 0 to 255 (30_encoding.md R55). -/
def AsmLine.channelOk (v : Int) : Bool := decide (0 ≤ v) && decide (v ≤ 255)

/-- A value outside the stated range is an assembly error, not a command (30_encoding.md R55). -/
def AsmLine.wellFormed : AsmLine → Bool
  | .setcolor idx red green blue =>
    AsmLine.indexOk idx && AsmLine.channelOk red && AsmLine.channelOk green && AsmLine.channelOk blue
  | .refresh => true
  | .waitIdle => true
  | .ticks _ => true

end Sys2Proof
end

