-- ==== Sys2Proof/Machine/Assembler.lean ====
section
/-! DEFINITION. The assembler syntax (30_encoding.md R55, R56): from a line of text to an item of the host's list.
What the spec does not say of blanks is the model's choice (notes/assumptions/14.md). -/

namespace Sys2Proof.Machine

/-- The item of a parsed line, none for an assembly error (30_encoding.md R55). -/
def assemble (l : AsmLine) : Option HostItem :=
  if l.wellFormed then
    match l with
    | .setcolor idx red green blue =>
      some (.command (encode (.setcolor (BitVec.ofInt 16 idx) (BitVec.ofInt 8 red) (BitVec.ofInt 8 green)
        (BitVec.ofInt 8 blue))))
    | .refresh => some (.command (encode .refresh))
    | .waitIdle => some .waitIdle
    | .ticks n => some (.ticks n)
  else none

/-- A blank between tokens: a space, a tab or a carriage return. -/
def isBlank (c : Char) : Bool := c == ' ' || c == '\t' || c == '\r'

/-- The text of a line before its comment: anything from `;` to the end is a comment (30_encoding.md R55). -/
def stripComment (l : List Char) : List Char := l.takeWhile (fun c => c != ';')

/-- Blanks removed at both ends. -/
def trim (l : List Char) : List Char := ((l.dropWhile isBlank).reverse.dropWhile isBlank).reverse

/-- The parts of a text between commas. -/
def splitCommas : List Char → List (List Char)
  | [] => [[]]
  | c :: l =>
    if c == ',' then [] :: splitCommas l
    else
      match splitCommas l with
      | [] => [[c]]
      | p :: ps => (c :: p) :: ps

/-- The value of a digit in base 10 or 16. -/
def digitValue (base : Nat) (c : Char) : Option Nat :=
  let n := c.toNat
  let v :=
    if 48 ≤ n ∧ n ≤ 57 then n - 48
    else if 65 ≤ n ∧ n ≤ 70 then n - 55
    else if 97 ≤ n ∧ n ≤ 102 then n - 87
    else 16
  if v < base then some v else none

/-- A row of digits added on to a value read so far. -/
def digitsFrom (base : Nat) (acc : Nat) : List Char → Option Nat
  | [] => some acc
  | c :: l =>
    match digitValue base c with
    | some d => digitsFrom base (acc * base + d) l
    | none => none

/-- A number of at least one digit. -/
def parseDigits (base : Nat) : List Char → Option Nat
  | [] => none
  | c :: l => digitsFrom base 0 (c :: l)

/-- `idx`: a decimal integer, negative ones with a minus sign (30_encoding.md R55). -/
def parseIndex : List Char → Option Int
  | '-' :: l => (parseDigits 10 l).map (fun n => -(n : Int))
  | l => (parseDigits 10 l).map (fun n => (n : Int))

/-- A channel: a decimal integer, or hexadecimal with the prefix 0x; a negative one parses and is out of range. -/
def parseChannel : List Char → Option Int
  | '0' :: 'x' :: l => (parseDigits 16 l).map (fun n => (n : Int))
  | l => parseIndex l

/-- The operands of a SETCOLOR line, in the order index, red, green, blue (30_encoding.md R55). -/
def parseOperands (l : List Char) : Option AsmLine :=
  match (splitCommas l).map trim with
  | [i, r, g, b] =>
    match parseIndex i, parseChannel r, parseChannel g, parseChannel b with
    | some i, some r, some g, some b => some (.setcolor i r g b)
    | _, _, _, _ => none
  | _ => none

/-- A line of text: `some none` for a line of blanks or comment only, `none` for an error (30_encoding.md R55, R56). -/
def parseLine (text : List Char) : Option (Option AsmLine) :=
  let l := trim (stripComment text)
  let word := l.takeWhile (fun c => !isBlank c)
  let rest := trim (l.dropWhile (fun c => !isBlank c))
  if l = [] then some none
  else if word = ['S', 'E', 'T', 'C', 'O', 'L', 'O', 'R'] then (parseOperands rest).map some
  else if word = ['R', 'E', 'F', 'R', 'E', 'S', 'H'] ∧ rest = [] then some (some .refresh)
  else if word = ['W', 'A', 'I', 'T', 'I', 'D', 'L', 'E'] ∧ rest = [] then some (some .waitIdle)
  else if word = ['T', 'I', 'C', 'K', 'S'] then (parseDigits 10 rest).map (fun n => some (.ticks n))
  else none

/-- A program text as the host's list, one line an item (30_encoding.md R55); none if a line is an error. -/
def assembleText : List (List Char) → Option (List HostItem)
  | [] => some []
  | t :: ts =>
    match parseLine t, assembleText ts with
    | some none, some r => some r
    | some (some l), some r => (assemble l).map (fun i => i :: r)
    | _, _ => none

end Sys2Proof.Machine
end

