-- ==== Sys2Proof/Machine/Output.lean ====
section
/-! DEFINITION. The PWM output stage as a reading of CCR (43_sequencer.md R93), and the host's read-back port
(60_exceptions.md R112). No step depends on this file. -/

namespace Sys2Proof.Machine

/-- Where in a period the pulse stands and which level is active: the parameter of the output stage (93 item U15). -/
structure OutputStage where
  /-- The active part comes first in the period. -/
  activeFirst : Bool
  /-- The level of the line in the active part. -/
  activeLevel : Bool
deriving DecidableEq, Repr

/-- The output stage of 43_sequencer.md R93: high first, active high (general knowledge G3, notes/assumptions/13.md). -/
def OutputStage.highFirst : OutputStage := ⟨true, true⟩

/-- The level of the line in each timer tick of a period with `CCR = v` (43_sequencer.md R93). A value `v >= PERIOD` has no
waveform (93 item U5). -/
def waveform (o : OutputStage) (c : Config) (v : Nat) : Option (List Bool) :=
  if v < c.period then
    let active := List.replicate v o.activeLevel
    let rest := List.replicate (c.period - v) (!o.activeLevel)
    some (if o.activeFirst then active ++ rest else rest ++ active)
  else none

end Sys2Proof.Machine
end

