-- ==== Sys2Proof/Machine/ReadBack.lean ====
section
/-! DEFINITION. The host's read-back port onto CB, PB and BUSY (60_exceptions.md R112). It has no encoding and no side
effect: each is a function of the state and leaves no state. -/

namespace Sys2Proof.Machine

/-- Reading byte `a` of the Color Buffer; an address outside the space cannot be formed (20_memory.md R30). -/
def readBackColor (s : State) (a : Nat) : Except Fault Byte :=
  if a < 3 * s.cfg.n then .ok (cbRead s a) else .error (.noSuchLocation a)

/-- Reading entry `k` of the Pulse Buffer (20_memory.md R31). -/
def readBackPulse (s : State) (k : Nat) : Except Fault Nat :=
  if k < s.cfg.len then .ok (pbRead s k) else .error (.noSuchLocation k)

/-- Reading the status output (10_state.md R15). -/
def readBackBusy (s : State) : Bool := s.busy

end Sys2Proof.Machine
end

