-- ==== Sys2Proof/Safety.lean ====
section
/-! DEFINITION. What counts as a good state and a good output, in the terms the statements use: the invariants of
10_state.md, the host's duty (70_reset_and_hazards.md R121), and the end of a run (R127). -/

namespace Sys2Proof.Machine

/-- A Pulse Buffer in canonical form whose data slots hold nothing but `T0H`, `T1H` or the reset value 0, and whose gap
slots hold 0 (10_state.md R13). -/
def pulsesOk (c : Config) (m : List (Nat × Nat)) : Bool :=
  cellsWf 0 m && cellsBelow c.dataLen m && m.all (fun p => decide (p.2 = c.t0h) || decide (p.2 = c.t1h))

/-- Every data slot holds a pulse: a REFRESH has built the buffer (10_state.md R13). -/
def isBuilt (c : Config) (m : List (Nat × Nat)) : Bool :=
  (List.range c.dataLen).all (fun k => decide (readCell 0 m k = c.t0h) || decide (readCell 0 m k = c.t1h))

/-- The value `v` is a legal symbol for slot `k` of a frame (30_encoding.md R53). -/
def legalAt (c : Config) (k v : Nat) : Prop :=
  if k < c.dataLen then v = c.t0h ∨ v = c.t1h else v = 0

/-- A list of entries each of which is legal for its slot. -/
def LegalRun (c : Config) (f : List Nat) : Prop := ∀ k v, f[k]? = some v → legalAt c k v

/-- What every reachable state satisfies: the ranges and relations of 10_state.md R10 to R23. -/
structure State.Inv (s : State) : Prop where
  /-- `CB` is in canonical form and holds addresses below `3*N` (R10). -/
  cb_ok : cellsWf 0#8 s.cb = true ∧ cellsBelow (3 * s.cfg.n) s.cb = true
  /-- `PB` holds legal symbols (R12, R13). -/
  pb_ok : pulsesOk s.cfg s.pb = true
  /-- So does `PBOLD` (43_sequencer.md R90). -/
  pbold_ok : pulsesOk s.cfg s.pbold = true
  /-- `0 <= POS <= L`, below `L` while a transfer is in flight (R16). -/
  pos_ok : s.pos ≤ s.cfg.len ∧ (s.busy = true → s.pos < s.cfg.len)
  /-- While idle `POS` is 0 or `L` and the line is low (R16, R17). -/
  idle_ok : s.busy = false → (s.pos = 0 ∨ s.pos = s.cfg.len) ∧ s.ccr = 0
  /-- `CCR` holds one of the three symbols (R17, 30_encoding.md R53). -/
  ccr_ok : s.ccr = 0 ∨ s.ccr = s.cfg.t0h ∨ s.ccr = s.cfg.t1h
  /-- A transfer in flight, or a start phase still to come, has a built buffer (43_sequencer.md R90). -/
  built_ok : s.busy = true ∨ s.starting = true → isBuilt s.cfg s.pb = true
  /-- `TEAR` is 1 only between the two phases of a REFRESH, over a buffer built earlier (R22). -/
  tear_ok : s.tear = true → s.busy = true ∧ s.starting = true ∧ isBuilt s.cfg s.pbold = true
  /-- Between the phases `TORN` is 1, and `TEAR` is 1 as long as the transfer lasts (42_refresh.md R79). -/
  starting_ok : s.starting = true → s.torn = true ∧ s.tear = s.busy
  /-- A halted block has never done anything (60_exceptions.md R103). -/
  halted_ok : s.halted = true →
    s.busy = false ∧ s.starting = false ∧ s.tear = false ∧ s.torn = false ∧ s.ccr = 0 ∧ s.out = []

/-- Every byte of `CB` is a value of the gamma function (10_state.md R11). -/
def State.ColorsInImage (s : State) : Prop := ∀ a, ∃ v : Byte, cbRead s a = gamma v

/-- Every frame in `OUT`, torn or not, has `L` entries, legal symbols and its gap, and the entries of the transfer in
flight are legal so far (43_sequencer.md R90). -/
def State.OutShaped (s : State) : Prop :=
  ∃ (fs : List (List Nat)) (p : List Nat),
    s.out = fs.flatten ++ p ∧ (∀ f ∈ fs, f.length = s.cfg.len ∧ LegalRun s.cfg f) ∧
      LegalRun s.cfg p ∧ p.length = if s.busy then s.pos else 0

/-- While `TORN = 0`, `OUT` is whole frames of Color Buffers, then the part delivered so far of the frame in `PB` while a
transfer is in flight (43_sequencer.md R94). -/
def State.OutWhole (s : State) : Prop :=
  s.torn = false →
    ∃ bs : List (List Byte),
      (∀ b ∈ bs, b.length = 3 * s.cfg.n) ∧
        s.out = bs.flatMap (frame s.cfg) ++
          (if s.busy then (pbEntries s).take s.pos else []) ∧
        (s.busy = true → ∃ b : List Byte, b.length = 3 * s.cfg.n ∧ pbEntries s = frame s.cfg b)

/-- A run is over when the host has issued its last command and `BUSY = 0` (70_reset_and_hazards.md R127). -/
def State.Over (s : State) : Prop := s.host = [] ∧ s.busy = false ∧ s.starting = false

/-- Every word the host still has to issue is a command (30_encoding.md R50 gives the others no step). -/
def State.HostDecodes (s : State) : Prop :=
  ∀ w, HostItem.command w ∈ s.host → ∃ i, decode w = .command i

/-- `k` steps in a row, stopping where one stops. -/
def stepN : Nat → State → Host.Outcome State Fault Refusal
  | 0, s => .next s
  | k + 1, s =>
    match step s with
    | .next t => stepN k t
    | .fault f => .fault f
    | .refused r => .refused r

/-- The next event is the host presenting `w`, as the encoder takes it in state `t`. -/
def Presents (s : State) (w : CommandWord) (t : State) : Prop := nextEvent s = .issue w t

/-- The event that breaks the ordering rule: a REFRESH accepted while `BUSY = 1` (70_reset_and_hazards.md R121). -/
def BreaksRule (s : State) : Prop :=
  ∃ w t, Presents s w t ∧ decode w = .command .refresh ∧ t.busy = true

end Sys2Proof.Machine
end

