-- ==== Sys2Proof/Certificates/Slice0/Obligations.lean ====
section
/-! DEFINITION. The statements for the provers, each a rule of spec/ or a consequence of some, named by what it states. -/

open Sys2Proof Sys2Proof.Machine

/-! Encoding -/

/-- 30_encoding.md R51, which the spec marks as derived from R46, R47 and R49: encoding then decoding a command returns
it, decoding then encoding a non-reserved word returns the word. -/
def Obligations.DecodeAndEncodeAreInverse : Prop :=
  (∀ i : Instr, decode (encode i) = .command i) ∧
    ∀ (w : CommandWord) (i : Instr), decode w = .command i → encode i = w

/-- 30_encoding.md R49: the decoder selects a row exactly where `w AND mask = match`, and the rows do not overlap. -/
def Obligations.DecodeFollowsMatchAndMask : Prop :=
  ∀ w : CommandWord,
    ((w &&& 0xFF0000000000#48 = 0x010000000000#48) ↔
        ∃ idx red green blue, decode w = .command (.setcolor idx red green blue)) ∧
      ((w &&& 0xFFFFFFFFFFFF#48 = 0x020000000000#48) ↔ decode w = .command .refresh) ∧
      ¬ (w &&& 0xFF0000000000#48 = 0x010000000000#48 ∧ w &&& 0xFFFFFFFFFFFF#48 = 0x020000000000#48)

/-- 30_encoding.md R46: the fields of a `SETCOLOR` word are the bits of format S, the index read as a signed number and
the channels as unsigned ones; R47: the one word of format Z. -/
def Obligations.DecodedFieldsAreTheFormatsBits : Prop :=
  ∀ w : CommandWord,
    (∀ idx red green blue, decode w = .command (.setcolor idx red green blue) ↔
      w.toNat / 2 ^ 40 = 1 ∧
        idx.toInt = ((w.toNat / 2 ^ 24 % 2 ^ 16 : Nat) : Int) - (if w.getLsbD 39 then 2 ^ 16 else 0) ∧
        red.toNat = w.toNat / 2 ^ 16 % 2 ^ 8 ∧ green.toNat = w.toNat / 2 ^ 8 % 2 ^ 8 ∧ blue.toNat = w.toNat % 2 ^ 8) ∧
      (decode w = .command .refresh ↔ w.toNat = 2 * 2 ^ 40)

/-- 30_encoding.md R50: the reserved words are those whose top byte is neither 1 nor 2 and those whose top byte is 2
with a non-zero rest. The encoder gives them no step. That this is the refusal `reservedWord` of `issue` and `step`
(notes/assumptions/12.md), that the word stands at the head of the host's list (5.md), and that `TICKS 0` before it lets
no tick come first (9.md) is the model's rendering. -/
def Obligations.ReservedWordsAreRefused : Prop :=
  ∀ w : CommandWord,
    ((∃ why, decode w = .reserved why) ↔
        (w.toNat / 2 ^ 40 ≠ 1 ∧ w.toNat / 2 ^ 40 ≠ 2) ∨ (w.toNat / 2 ^ 40 = 2 ∧ w.toNat % 2 ^ 40 ≠ 0)) ∧
      ∀ (s : State) (why : Reserved) (rest : List HostItem), decode w = .reserved why →
        issue w s = .refused (.reservedWord why) ∧
          (s.halted = false → s.starting = false →
            (s.host = .command w :: rest ∧ s.busy = false) ∨ s.host = .ticks 0 :: .command w :: rest →
            step s = .refused (.reservedWord why))

/-- 95_test_vectors.md 2.2: words of the spec's own table decode as it says. -/
def Obligations.SpecWordsDecode : Prop :=
  decode 0x01000000FF00#48 = .command (.setcolor 0#16 0#8 255#8 0#8) ∧
    decode 0x010001FF800F#48 = .command (.setcolor 1#16 255#8 128#8 15#8) ∧
    decode 0x01FFFF010203#48 = .command (.setcolor (-1) 1#8 2#8 3#8) ∧
    decode 0x020000000000#48 = .command .refresh ∧
    decode 0x020000000001#48 = .reserved (.refreshField 1#40) ∧
    decode 0x000000000000#48 = .reserved (.opcode 0#8) ∧
    decode 0xFF0000000000#48 = .reserved (.opcode 255#8)

/-- 30_encoding.md R48, an inference the spec marks as derived from R46 and 00_scope.md R8: reading the index as signed
or as unsigned accepts the same words. -/
def Obligations.SignedAndUnsignedIndexAgree : Prop :=
  ∀ (c : Config) (idx : BitVec 16),
    (0 ≤ idx.toInt ∧ idx.toInt < (c.n : Int)) ↔ idx.toNat < c.n

/-- 30_encoding.md R55: a SETCOLOR line assembles to the word of its operands, and a value outside its range to nothing.
The text forms accepted are the model's (notes/assumptions/14.md). -/
def Obligations.AssemblerKeepsOperandsOrRefuses : Prop :=
  ∀ idx red green blue : Int,
    if -32768 ≤ idx ∧ idx ≤ 32767 ∧ 0 ≤ red ∧ red ≤ 255 ∧ 0 ≤ green ∧ green ≤ 255 ∧ 0 ≤ blue ∧ blue ≤ 255 then
      ∃ w i r g b, assemble (.setcolor idx red green blue) = some (.command w) ∧
        decode w = .command (.setcolor i r g b) ∧ i.toInt = idx ∧ (r.toNat : Int) = red ∧
        (g.toNat : Int) = green ∧ (b.toNat : Int) = blue
    else assemble (.setcolor idx red green blue) = none

/-! Parameters and gamma -/

/-- 00_scope.md R7 and R8, less the gap's duration, which a model without time cannot check (70_reset_and_hazards.md
R120, notes/assumptions/17.md): a configuration is built exactly from parameters that meet every constraint. -/
def Obligations.ConfigurationsMeetTheConstraints : Prop :=
  ∀ p : Params,
    (∃ c, Config.build p = some c ∧ c.toParams = p) ↔
      (p.t0h < p.t1h ∧ p.t1h < p.period ∧ 1 ≤ p.n ∧ 1 ≤ p.gap ∧ 1 ≤ p.t0h ∧ p.period ≤ 2 ^ p.pw ∧
        p.n ≤ 2 ^ (16 - 1) ∧ p.len ≤ 2 ^ 32 - 1 ∧ p.len = 24 * p.n + p.gap)

/-- 40_gamma.md R60: every entry of the table is `clamp(round(255 * (v/255)^2.2))` over the reals. -/
def Obligations.GammaIsTheRoundedPower : Prop :=
  ∀ v : Byte,
    ((gamma v).toNat : Int) = max 0 (min 255 (round (255 * (((v.toNat : ℝ) / 255) ^ (2.2 : ℝ)))))

/-- 40_gamma.md R64, in part the spec's own inference from R61: end points, monotonicity, `GAMMA(v) <= v`, the fixed
points, and steps of at most 3. -/
def Obligations.GammaTableProperties : Prop :=
  gamma 0#8 = 0#8 ∧ gamma 255#8 = 255#8 ∧
    (∀ v < 255, (gamma (BitVec.ofNat 8 v)).toNat ≤ (gamma (BitVec.ofNat 8 (v + 1))).toNat ∧
      (gamma (BitVec.ofNat 8 (v + 1))).toNat ≤ (gamma (BitVec.ofNat 8 v)).toNat + 3) ∧
    (∀ v < 256, (gamma (BitVec.ofNat 8 v)).toNat ≤ v ∧
      ((gamma (BitVec.ofNat 8 v)).toNat = v ↔ v = 0 ∨ v = 255) ∧
      (gamma (BitVec.ofNat 8 v) = 0#8 ↔ v ≤ 14) ∧ (gamma (BitVec.ofNat 8 v) = 1#8 ↔ 15 ≤ v ∧ v ≤ 24))

/-- 40_gamma.md R65, which the spec marks as derived from R61: 128 is no value of the function, bit 7 of the stored byte
is set exactly from raw 187 on, and the image has 184 members. -/
def Obligations.GammaImageLacks128 : Prop :=
  (∀ v < 256, gamma (BitVec.ofNat 8 v) ≠ 128#8 ∧ ((gamma (BitVec.ofNat 8 v)).getLsbD 7 = true ↔ 187 ≤ v)) ∧
    ((List.range 256).map (fun v => gamma (BitVec.ofNat 8 v))).dedup.length = 184

/-! The frame -/

/-- 30_encoding.md R52: the slots of an `N`-LED strip take each value below `24*N` once, and the inverse is as given. -/
def Obligations.SlotsNumberTheDataRegion : Prop :=
  ∀ n : Nat,
    (∀ i c b, i < n → c < 3 → b < 8 →
      slot i c b < 24 * n ∧ slot i c b / 24 = i ∧ slot i c b % 24 / 8 = c ∧ 7 - slot i c b % 8 = b ∧
        slot i c b / 8 = 3 * i + c) ∧
      ∀ k, k < 24 * n → ∃ i c b, i < n ∧ c < 3 ∧ b < 8 ∧ slot i c b = k

/-- 30_encoding.md R54: the frame of `3*N` bytes has `L` entries, entry `8*a + 7 - b` is the pulse of bit `b` of byte
`a`, and every later entry is 0. -/
def Obligations.FrameHoldsBitsThenGap : Prop :=
  ∀ (c : Config) (bytes : List Byte), bytes.length = 3 * c.n →
    (frame c bytes).length = c.len ∧
      (∀ a b, (h : a < bytes.length) → b < 8 →
        (frame c bytes)[8 * a + (7 - b)]? = some (if (bytes[a]).getLsbD b then c.t1h else c.t0h)) ∧
      ∀ k, 24 * c.n ≤ k → k < c.len → (frame c bytes)[k]? = some 0

/-- 30_encoding.md R53: the three symbols are distinct, and a frame can be decoded back: two byte lists of `3*N` bytes
with the same frame are equal. -/
def Obligations.FrameCanBeDecodedBack : Prop :=
  ∀ c : Config,
    symbolOf c c.t1h = some .one ∧ symbolOf c c.t0h = some .zero ∧ symbolOf c 0 = some .gap ∧
      ∀ b b' : List Byte, b.length = 3 * c.n → b'.length = 3 * c.n → frame c b = frame c b' → b = b'

/-! SETCOLOR -/

/-- 41_setcolor.md R68 and R69: for a valid index SETCOLOR completes, the three bytes take the corrected green, red and
blue, and nothing else changes; for any other index it completes and nothing changes. While `HALTED = 1` it is not executed:
it has no next state. -/
def Obligations.SetcolorStoresCorrectedBytes : Prop :=
  ∀ (s : State) (idx : BitVec 16) (red green blue : Byte),
    (∀ i : Nat, s.halted = false → i < s.cfg.n → idx.toInt = (i : Int) →
      ∃ t, exec (.setcolor idx red green blue) s = .next t ∧ t = { s with cb := t.cb } ∧
        cbRead t (3 * i) = gamma green ∧ cbRead t (3 * i + 1) = gamma red ∧ cbRead t (3 * i + 2) = gamma blue ∧
        ∀ a, a ≠ 3 * i → a ≠ 3 * i + 1 → a ≠ 3 * i + 2 → cbRead t a = cbRead s a) ∧
      (s.halted = false → ¬ (0 ≤ idx.toInt ∧ idx.toInt < (s.cfg.n : Int)) →
        exec (.setcolor idx red green blue) s = .next s) ∧
      (s.halted = true → ∀ t, exec (.setcolor idx red green blue) s ≠ .next t)

/-- 41_setcolor.md R70, which the spec marks as derived from R68 and 30_encoding.md R48: the corner cases of the
index. -/
def Obligations.SetcolorIndexCornerCases : Prop :=
  ∀ (s : State) (red green blue : Byte), s.halted = false →
    exec (.setcolor (BitVec.ofNat 16 s.cfg.n) red green blue) s = .next s ∧
      exec (.setcolor 0xFFFF#16 red green blue) s = .next s ∧
      exec (.setcolor 0x8000#16 red green blue) s = .next s ∧
      (s.cfg.n < 32768 → exec (.setcolor 0x7FFF#16 red green blue) s = .next s) ∧
      (∃ t, exec (.setcolor 0#16 red green blue) s = .next t ∧ cbRead t 0 = gamma green ∧
        cbRead t 1 = gamma red ∧ cbRead t 2 = gamma blue) ∧
      ∃ t, exec (.setcolor (BitVec.ofNat 16 (s.cfg.n - 1)) red green blue) s = .next t ∧
        cbRead t (3 * s.cfg.n - 3) = gamma green ∧ cbRead t (3 * s.cfg.n - 2) = gamma red ∧
        cbRead t (3 * s.cfg.n - 1) = gamma blue

/-- The frame of SETCOLOR, for every operand (41_setcolor.md R68): no field but `CB` changes, and no byte outside the
three of the LED. -/
def Obligations.SetcolorFrame : Prop :=
  ∀ (s t : State) (idx : BitVec 16) (red green blue : Byte),
    exec (.setcolor idx red green blue) s = .next t →
      t = { s with cb := t.cb } ∧
        (∀ a, ¬ (validIndex s.cfg idx = true ∧ ledBase idx ≤ a ∧ a ≤ ledBase idx + 2) → cbRead t a = cbRead s a) ∧
        (∀ k, pbRead t k = pbRead s k) ∧
        (cellsBelow (3 * s.cfg.n) s.cb = true → cellsBelow (3 * s.cfg.n) t.cb = true)

/-- 41_setcolor.md R72, which the spec marks as derived from R68: a later SETCOLOR to the same index replaces what the
earlier one stored; with the same operands it changes nothing (idempotence). -/
def Obligations.LaterSetcolorReplacesEarlier : Prop :=
  ∀ (s t u v : State) (idx : BitVec 16) (red green blue red' green' blue' : Byte), cellsWf 0#8 s.cb = true →
    exec (.setcolor idx red green blue) s = .next t → exec (.setcolor idx red' green' blue') t = .next u →
    exec (.setcolor idx red' green' blue') s = .next v → u = v ∧
      exec (.setcolor idx red green blue) t = .next t

/-- 41_setcolor.md R72, which the spec marks as derived from R68: SETCOLOR commands to different indices commute. -/
def Obligations.SetcolorsToDifferentLedsCommute : Prop :=
  ∀ (s t t' : State) (i j : BitVec 16) (r g b r' g' b' : Byte), i ≠ j → cellsWf 0#8 s.cb = true →
    exec (.setcolor i r g b) s = .next t → exec (.setcolor j r' g' b') s = .next t' →
    ∃ u, exec (.setcolor j r' g' b') t = .next u ∧ exec (.setcolor i r g b) t' = .next u

/-- 60_exceptions.md R106: a SETCOLOR and a tick commute. -/
def Obligations.SetcolorAndTickCommute : Prop :=
  ∀ (s t : State) (idx : BitVec 16) (red green blue : Byte), tick s = .next t →
    ∃ u v, exec (.setcolor idx red green blue) s = .next u ∧ tick u = .next v ∧
      exec (.setcolor idx red green blue) t = .next v

/-! REFRESH -/

/-- 42_refresh.md R76 and R77: REFRESH completes, busy or not, every data slot holds the pulse of its bit and every gap
slot 0, so `PB = frame(CB)`. -/
def Obligations.RefreshBuildsTheFrame : Prop :=
  ∀ s : State, s.halted = false →
    ∃ t, exec .refresh s = .next t ∧
      (∀ i c b, i < s.cfg.n → c < 3 → b < 8 →
        pbRead t (24 * i + 8 * c + (7 - b)) =
          if (cbRead s (3 * i + c)).getLsbD b then s.cfg.t1h else s.cfg.t0h) ∧
      (∀ k, 24 * s.cfg.n ≤ k → k < s.cfg.len → pbRead t k = 0) ∧ pbEntries t = frame s.cfg (cbBytes s)

/-- 42_refresh.md R75 and R78: a REFRESH accepted with `BUSY = 0` is one step that ends with the transfer started. -/
def Obligations.RefreshWhileIdleStartsTheTransfer : Prop :=
  ∀ s : State, s.halted = false → s.busy = false →
    ∃ t, exec .refresh s = .next t ∧
      t = { s with pb := t.pb, busy := true, pos := 0, tear := false, starting := false } ∧
      pbEntries t = frame s.cfg (cbBytes s)

/-- 42_refresh.md R79: a REFRESH accepted with `BUSY = 1` snapshots the buffer, sets `TEAR` and `TORN`, rebuilds the
buffer and leaves the start phase still to come, which the model's field `starting` says (notes/assumptions/8.md). -/
def Obligations.RefreshWhileBusyTearsTheFrame : Prop :=
  ∀ s : State, s.halted = false → s.busy = true →
    ∃ t, exec .refresh s = .next t ∧
      t = { s with pb := t.pb, pbold := s.pb, tear := true, torn := true, starting := true } ∧
      pbEntries t = frame s.cfg (cbBytes s)

/-- The frame of REFRESH (42_refresh.md R75 to R80): `CB`, `CCR`, `OUT`, `HALTED`, the parameters and the host's side
are unchanged, and so is every entry outside `0..L-1`. -/
def Obligations.RefreshFrame : Prop :=
  ∀ s t : State, exec .refresh s = .next t →
    t = { s with pb := t.pb, busy := t.busy, pos := t.pos, torn := t.torn, tear := t.tear, pbold := t.pbold,
                 starting := t.starting } ∧
      (s.torn = true → t.torn = true) ∧ (s.busy = false → t.torn = s.torn ∧ t.pbold = s.pbold) ∧
      (s.busy = true → t.pos = s.pos) ∧ t.busy = true ∧ ∀ k, s.cfg.len ≤ k → pbRead t k = pbRead s k

/-- 42_refresh.md R82: the buffer REFRESH leaves depends on the Color Buffer and on `N`, `GAP`, `T0H`, `T1H` and on
nothing else; and in the torn window an entry whose old and new values are equal is delivered as that value. -/
def Obligations.RefreshDependsOnColorsAlone : Prop :=
  (∀ s s' t t' : State, s.cfg.n = s'.cfg.n → s.cfg.gap = s'.cfg.gap → s.cfg.t0h = s'.cfg.t0h → s.cfg.t1h = s'.cfg.t1h →
      (∀ a, a < 3 * s.cfg.n → cbRead s a = cbRead s' a) →
      exec .refresh s = .next t → exec .refresh s' = .next t' → pbEntries t = pbEntries t') ∧
    ∀ s : State, s.halted = false → s.busy = true → s.tear = true → s.pos < s.cfg.len →
      pboldRead s s.pos = pbRead s s.pos → ∃ t, tick s = .next t ∧ t.ccr = pbRead s s.pos ∧ t.out = s.out ++ [pbRead s s.pos]

/-- 42_refresh.md R81 (a) and (b), which the spec marks as derived: a Color Buffer of zeros gives `24*N` entries `T0H`,
one of 255s gives `24*N` entries `T1H`, then `GAP` zeros. -/
def Obligations.RefreshOfUniformColors : Prop :=
  ∀ s t : State, exec .refresh s = .next t →
    ((∀ a, a < 3 * s.cfg.n → cbRead s a = 0#8) →
      pbEntries t = List.replicate (24 * s.cfg.n) s.cfg.t0h ++ List.replicate s.cfg.gap 0) ∧
      ((∀ a, a < 3 * s.cfg.n → cbRead s a = 255#8) →
        pbEntries t = List.replicate (24 * s.cfg.n) s.cfg.t1h ++ List.replicate s.cfg.gap 0)

/-- 42_refresh.md R78: the start phase, taken between the phases of a REFRESH, is honoured where the transfer has ended
and dropped where it is still in flight. That the head of the oracle stream lets the encoder go first is the model's
rendering of a free order (notes/assumptions/6.md). -/
def Obligations.StartIsHonouredOrDropped : Prop :=
  ∀ s : State, s.halted = false → s.starting = true →
    (s.busy = false → step s = .next { s with busy := true, pos := 0, tear := false, starting := false }) ∧
      ∀ cs, s.busy = true → s.choices = false :: cs →
        step s = .next { s with tear := false, starting := false, choices := cs, drawn := s.drawn + 1 }

/-! The sequencer -/

/-- 43_sequencer.md R88: a tick while active and not torn delivers `PB[POS]`, and the one that raises `POS` to `L` ends
the transfer. -/
def Obligations.TickDeliversTheEntryAtPos : Prop :=
  ∀ s : State, s.halted = false → s.busy = true → s.tear = false → s.pos < s.cfg.len →
    tick s = .next { s with ccr := pbRead s s.pos, out := s.out ++ [pbRead s s.pos], pos := s.pos + 1,
                            busy := decide (s.pos + 1 ≠ s.cfg.len) }

/-- 43_sequencer.md R89: in every good state the tick that raises `POS` to `L`, torn or not, clears `BUSY` and `TEAR`
and leaves `POS` at `L` and `CCR` at the value of entry `L - 1`, which is 0; no earlier tick does; so a transfer is
exactly `L` ticks. -/
def Obligations.LastTickEndsTheTransfer : Prop :=
  ∀ s : State, s.Inv → s.busy = true →
    (∃ t, tick s = .next t ∧ t.pos = s.pos + 1 ∧ t.pb = s.pb ∧
      (t.pos = s.cfg.len → t.busy = false ∧ t.tear = false ∧ t.ccr = pbRead s (s.cfg.len - 1) ∧ t.ccr = 0) ∧
      (t.pos ≠ s.cfg.len → t.busy = true ∧ t.tear = s.tear)) ∧
      (s.pos = 0 → ∀ k, k ≤ s.cfg.len → ∃ u, tickN k s = .next u ∧ u.pos = k ∧ u.busy = decide (k < s.cfg.len))

/-- 43_sequencer.md R90: while `TEAR = 1` the value delivered is the old or the new entry, and either can be had: the
oracle bit decides, an absent one leaves the choice free (notes/assumptions/7.md). -/
def Obligations.TornTickDeliversOldOrNew : Prop :=
  ∀ s : State, s.halted = false → s.busy = true → s.tear = true → s.pos < s.cfg.len →
    ∃ v, (v = pboldRead s s.pos ∨ v = pbRead s s.pos) ∧
      (∀ b cs, s.choices = b :: cs → v = if b then pboldRead s s.pos else pbRead s s.pos) ∧
      tick s = .next { s with ccr := v, out := s.out ++ [v], pos := s.pos + 1,
                              busy := decide (s.pos + 1 ≠ s.cfg.len), tear := decide (s.pos + 1 ≠ s.cfg.len),
                              choices := s.choices.tail, drawn := s.drawn + 1 }

/-- 43_sequencer.md R92: a tick while idle changes nothing, and in every good state the line then is low (`CCR = 0`). -/
def Obligations.IdleTickChangesNothing : Prop :=
  ∀ s : State, s.halted = false → s.busy = false → tick s = .next s ∧ (s.Inv → s.ccr = 0)

/-- 20_memory.md R42: the sequencer does not depend on the Color Buffer, and leaves it alone. -/
def Obligations.SequencerIgnoresTheColorBuffer : Prop :=
  ∀ (s t : State) (cells : List Host.Cell), tick s = .next t →
    t.cb = s.cb ∧ t.pb = s.pb ∧ tick { s with cb := cells } = .next { t with cb := cells }

/-- 20_memory.md R40, and 43_sequencer.md R94, which the spec marks as derived: after a REFRESH accepted idle, `k` ticks
have delivered the first `k` entries of the frame of the Color Buffer as it stood, and the transfer ends with the
`L`-th. -/
def Obligations.CleanTransferDeliversOneFrame : Prop :=
  ∀ s : State, s.halted = false → s.busy = false →
    ∃ t, exec .refresh s = .next t ∧
      ∀ k, k ≤ s.cfg.len →
        ∃ u, tickN k t = .next u ∧ u.out = s.out ++ (frame s.cfg (cbBytes s)).take k ∧ u.pos = k ∧
          u.busy = decide (k < s.cfg.len) ∧ u.torn = s.torn ∧ (k = s.cfg.len → u.ccr = 0)

/-- 43_sequencer.md R94, which the spec marks as derived: while a transfer of the buffer `f` is in flight, no step but a
REFRESH disturbs it, whatever SETCOLOR commands and ticks it takes: `OUT` grows along `f`, and the transfer ends with
all of `f` delivered. -/
def Obligations.TransferInFlightKeepsDelivering : Prop :=
  ∀ (s t : State) (f o : List Nat),
    s.busy = true → s.tear = false → s.starting = false → s.pos < s.cfg.len → pbEntries s = f →
    s.out = o ++ f.take s.pos → step s = .next t → ¬ BreaksRule s →
    (t.busy = true ∧ t.tear = false ∧ t.starting = false ∧ t.pos < t.cfg.len ∧ pbEntries t = f ∧
        t.out = o ++ f.take t.pos ∧ (t.pos = s.pos ∨ t.pos = s.pos + 1)) ∨
      (t.busy = false ∧ t.tear = false ∧ t.starting = false ∧ t.pos = t.cfg.len ∧ t.out = o ++ f)

/-- 43_sequencer.md R91: a transfer in flight with nothing more to issue ends after exactly the steps left. That each
such step is a tick is the model's rendering of the spec's fairness (notes/assumptions/10.md). -/
def Obligations.TransferRunsToCompletion : Prop :=
  ∀ s : State, s.Inv → s.busy = true → s.starting = false → s.host = [] →
    ∃ t, stepN (s.cfg.len - s.pos) s = .next t ∧ t.busy = false ∧ t.pos = s.cfg.len ∧ t.host = [] ∧
      ∀ k, k < s.cfg.len - s.pos → ∃ u, stepN k s = .next u ∧ u.busy = true

/-! The step -/

/-- A step runs the decoded command: with `BUSY = 0` at once; with `BUSY = 1` where the free choice lets the encoder go
first; and at once after `TICKS 0`. In the other case a tick comes first (60_exceptions.md R106). How the choice is held
is the model's (notes/assumptions/5.md, 6.md and 9.md). -/
def Obligations.StepRunsTheDecodedCommand : Prop :=
  ∀ (s : State) (w : CommandWord) (i : Instr) (rest : List HostItem),
    s.halted = false → s.starting = false → decode w = .command i →
    (s.host = .command w :: rest → s.busy = false → step s = exec i { s with host := rest }) ∧
      (s.host = .ticks 0 :: .command w :: rest → step s = exec i { s with host := rest }) ∧
      ∀ b cs, s.host = .command w :: rest → s.busy = true → s.choices = b :: cs →
        step s = if b then tick { s with choices := cs, drawn := s.drawn + 1 }
          else exec i { s with host := rest, choices := cs, drawn := s.drawn + 1 }

/-- The word placed by `withFetchWord` is the one the next step runs, in a state the same but for the place between
phases (the model's, notes/assumptions/5.md). -/
def Obligations.PlacedWordRunsNext : Prop :=
  ∀ (s : State) (i : Instr), s.halted = false →
    step (s.withFetchWord 48 (encode i).toNat) = exec i { s with starting := false }

/-- 30_encoding.md R56: `TICKS n` lets exactly `n` ticks occur, then the next command is issued (the model's reading,
notes/assumptions/9.md). -/
def Obligations.TicksDirectivePinsTheTicks : Prop :=
  ∀ (n : Nat) (s u : State) (w : CommandWord) (i : Instr) (rest : List HostItem),
    s.halted = false → s.starting = false → s.host = .ticks n :: .command w :: rest → decode w = .command i →
    tickN n s = .next u → stepN (n + 1) s = exec i { u with host := rest }

/-- 30_encoding.md R56: under `WAITIDLE` the host issues nothing while `BUSY = 1`, and goes on when it reads 0
(notes/assumptions/9.md). -/
def Obligations.WaitIdleHoldsTheHost : Prop :=
  ∀ (s : State) (rest : List HostItem), s.halted = false → s.starting = false → s.host = .waitIdle :: rest →
    (s.busy = true → step s = tick s) ∧ (s.busy = false → step s = .next { s with host := rest })

/-- 60_exceptions.md R103: while `HALTED = 1` no command is executed, no tick has effect and no step is enabled, which
the model says by the fault `halted` (notes/assumptions/11.md). -/
def Obligations.HaltedIsStuck : Prop :=
  ∀ (s : State) (i : Instr), s.halted = true →
    exec i s = .fault .halted ∧ tick s = .fault .halted ∧ step s = .fault .halted

/-- 30_encoding.md R56, 43_sequencer.md R94: REFRESH then WAITIDLE, from any idle state, delivers the whole frame of the
Color Buffer in `L + 1` steps (R94 is marked derived by the spec; the steps are the model's, notes/assumptions/9.md). -/
def Obligations.RefreshThenWaitDeliversTheFrame : Prop :=
  ∀ (s : State) (rest : List HostItem), s.halted = false → s.busy = false → s.starting = false →
    s.host = .command (encode .refresh) :: .waitIdle :: rest →
    ∃ t, stepN (s.cfg.len + 1) s = .next t ∧ t.out = s.out ++ frame s.cfg (cbBytes s) ∧ t.busy = false ∧
      t.host = .waitIdle :: rest ∧ t.cb = s.cb ∧ t.torn = s.torn ∧ t.ccr = 0 ∧ t.choices = s.choices

/-- 70_reset_and_hazards.md R127: from every good state whose remaining words are commands the run comes to its end.
That ticks come where nothing else can happen renders the spec's fairness (notes/assumptions/10.md), and the steps that
the directives take are the model's reading (9.md). -/
def Obligations.EveryRunComesToItsEnd : Prop :=
  ∀ s : State, s.Inv → s.halted = false → s.HostDecodes → ∃ k t, stepN k s = .next t ∧ t.Over

/-! The torn window -/

/-- 42_refresh.md R79, 43_sequencer.md R90: every mixture of old and new entries can be delivered between the phases of
an overlapping REFRESH, after which the start request is dropped: for every list of choices shorter than the rest of the
transfer, the run in which each ticks once and takes it. The oracle stream is the model's rendering of the draws
(notes/assumptions/6.md and 7.md). -/
def Obligations.EveryMixtureThenDroppedStart : Prop :=
  ∀ (s : State) (bits cs : List Bool), s.halted = false → s.busy = true → s.tear = true → s.starting = true →
    s.pos + bits.length < s.cfg.len → s.choices = bits.flatMap (fun b => [true, b]) ++ false :: cs →
    ∃ t, stepN (bits.length + 1) s = .next t ∧
      t.out = s.out ++ bits.mapIdx (fun j b => if b then pboldRead s (s.pos + j) else pbRead s (s.pos + j)) ∧
      t.busy = true ∧ t.pos = s.pos + bits.length ∧ t.tear = false ∧ t.starting = false ∧ t.pb = s.pb ∧
      t.host = s.host

/-- 42_refresh.md R79: all the rest of the transfer can fall between the phases, in any mixture, and then the start
request is honoured: a second transfer of the new buffer begins (notes/assumptions/6.md and 7.md). -/
def Obligations.EveryMixtureThenHonouredStart : Prop :=
  ∀ (s : State) (bits cs : List Bool), s.halted = false → s.busy = true → s.tear = true → s.starting = true →
    s.pos < s.cfg.len → s.pos + bits.length = s.cfg.len → s.choices = bits.flatMap (fun b => [true, b]) ++ cs →
    ∃ t, stepN (bits.length + 1) s = .next t ∧
      t.out = s.out ++ bits.mapIdx (fun j b => if b then pboldRead s (s.pos + j) else pbRead s (s.pos + j)) ∧
      t.busy = true ∧ t.pos = 0 ∧ t.tear = false ∧ t.starting = false ∧ t.pb = s.pb ∧ t.host = s.host

/-! Invariants and whole-machine rules -/

/-- 70_reset_and_hazards.md R116: the reset state, for every configuration and either value of `INIT_OK`. -/
def Obligations.ResetGivesTheStatedValues : Prop :=
  ∀ (c : Config) (initOk : Bool),
    let s := State.resetWith c initOk
    (∀ a, cbRead s a = 0#8) ∧ (∀ k, pbRead s k = 0) ∧ s.busy = false ∧ s.pos = 0 ∧ s.ccr = 0 ∧ s.out = [] ∧
      s.torn = false ∧ s.tear = false ∧ (∀ k, pboldRead s k = 0) ∧ (s.halted = !initOk) ∧ s.cfg = c

/-- The invariants of Safety.lean hold of the reset state. -/
def Obligations.ResetSatisfiesTheInvariants : Prop :=
  ∀ (c : Config) (initOk : Bool),
    (State.resetWith c initOk).Inv ∧ (State.resetWith c initOk).ColorsInImage ∧
      (State.resetWith c initOk).OutShaped ∧ (State.resetWith c initOk).OutWhole

/-- 10_state.md R10 to R23: every step keeps the invariant of the state. -/
def Obligations.StepKeepsTheInvariant : Prop :=
  ∀ s t : State, s.Inv → step s = .next t → t.Inv

/-- 10_state.md R11, which the spec marks as derived: every step keeps every byte of `CB` a value of the gamma
function. -/
def Obligations.StepKeepsColorsInTheGammaImage : Prop :=
  ∀ s t : State, s.ColorsInImage → step s = .next t → t.ColorsInImage

/-- 43_sequencer.md R90: torn or not, every frame in `OUT` has its length, its gap and only legal symbols. -/
def Obligations.StepKeepsFramesWellShaped : Prop :=
  ∀ s t : State, s.Inv → s.OutShaped → step s = .next t → t.OutShaped

/-- 43_sequencer.md R94, which the spec marks as derived: while `TORN = 0` the output is whole frames of Color Buffers
and a first part of the frame in flight. -/
def Obligations.StepKeepsUntornFramesWhole : Prop :=
  ∀ s t : State, s.Inv → s.OutWhole → step s = .next t → t.OutWhole

/-- 10_state.md R21: `TORN` is 0 after reset and sticky, and a REFRESH accepted with `BUSY = 1` sets it and nothing
else. -/
def Obligations.OnlyABrokenRuleSetsTorn : Prop :=
  (∀ (c : Config) (initOk : Bool), (State.resetWith c initOk).torn = false) ∧
    ∀ s t : State, step s = .next t → (t.torn = true ↔ s.torn = true ∨ BreaksRule s)

/-- 10_state.md R19 and R23: no step changes the parameters or `HALTED`. -/
def Obligations.ParametersAndHaltedNeverChange : Prop :=
  ∀ s t : State, step s = .next t → t.cfg = s.cfg ∧ t.halted = s.halted

/-- 10_state.md R18: a step leaves `OUT` and `CCR` alone, or appends one value, which is then in `CCR`. -/
def Obligations.OutGrowsByWhatReachesCcr : Prop :=
  ∀ s t : State, step s = .next t →
    (t.out = s.out ∧ t.ccr = s.ccr) ∨ (s.busy = true ∧ t.out = s.out ++ [t.ccr] ∧ t.pos = s.pos + 1)

/-- 10_state.md R10 and R12: only a SETCOLOR changes the Color Buffer and only a REFRESH the Pulse Buffer. -/
def Obligations.EachBufferHasOneWriter : Prop :=
  ∀ s t : State, step s = .next t →
    (t.cb ≠ s.cb → ∃ w u idx red green blue, Presents s w u ∧ decode w = .command (.setcolor idx red green blue)) ∧
      (t.pb ≠ s.pb → ∃ w u, Presents s w u ∧ decode w = .command .refresh)

/-- 10_state.md R15: `BUSY` is raised by the start phase of a REFRESH alone, and cleared by the step alone that delivers
the last entry. -/
def Obligations.WhatRaisesAndClearsBusy : Prop :=
  ∀ s t : State, step s = .next t →
    (s.busy = false → t.busy = true →
      t.pos = 0 ∧ (s.starting = true ∨ ∃ w u, Presents s w u ∧ decode w = .command .refresh)) ∧
      (s.busy = true → t.busy = false → s.pos + 1 = s.cfg.len ∧ t.pos = s.cfg.len ∧ t.out = s.out ++ [t.ccr])

/-- 10_state.md R16: a step leaves `POS` alone, adds 1 to it while `BUSY = 1`, or sets it to 0 when a transfer
starts. -/
def Obligations.PosAdvancesByOneOrRestarts : Prop :=
  ∀ s t : State, step s = .next t →
    t.pos = s.pos ∨ (s.busy = true ∧ t.pos = s.pos + 1) ∨ (s.busy = false ∧ t.busy = true ∧ t.pos = 0)

/-- 10_state.md R13, which the spec marks as derived: in every good state every entry, and `CCR`, is less than `PERIOD`
and fits `PW` bits. -/
def Obligations.EveryEntryIsBelowThePeriod : Prop :=
  ∀ s : State, s.Inv →
    (∀ k, pbRead s k < s.cfg.period ∧ pbRead s k < 2 ^ s.cfg.pw) ∧ s.ccr < s.cfg.period ∧ s.ccr < 2 ^ s.cfg.pw ∧
      ∀ k, s.cfg.dataLen ≤ k → pbRead s k = 0

/-- 43_sequencer.md R93: with `CCR = v` below `PERIOD` the line is high in the first `v` timer ticks of the period and
low in the rest; no other value has a waveform. High first and active high are general knowledge
(notes/assumptions/13.md). -/
def Obligations.LineIsHighForCcrTicks : Prop :=
  ∀ (c : Config) (v : Nat),
    (v < c.period → ∃ l, waveform .highFirst c v = some l ∧ l.length = c.period ∧
      (∀ j, j < v → l[j]? = some true) ∧ ∀ j, v ≤ j → j < c.period → l[j]? = some false) ∧
      (c.period ≤ v → ∀ o, waveform o c v = none)

/-- 60_exceptions.md R112: the host can read exactly the `3*N` bytes of `CB` and the `L` entries of `PB`; the refusal of
any other address is the model's (notes/assumptions/4.md). -/
def Obligations.ReadBackReachesEveryLocation : Prop :=
  ∀ s : State,
    (∀ a, a < 3 * s.cfg.n → readBackColor s a = .ok (cbRead s a)) ∧
      (∀ a, 3 * s.cfg.n ≤ a → readBackColor s a = .error (.noSuchLocation a)) ∧
      (∀ k, k < s.cfg.len → readBackPulse s k = .ok (pbRead s k)) ∧
      (∀ k, s.cfg.len ≤ k → readBackPulse s k = .error (.noSuchLocation k)) ∧ readBackBusy s = s.busy
end

