-- ==== Sys2Proof/Laws/Cells.lean ====
section
/-! SUPPORT. What the cell operations do: reading after writing, and that the canonical form is kept. -/

namespace Sys2Proof.Machine

variable {α : Type}

@[simp] theorem readCell_nil (z : α) (a : Nat) : readCell z [] a = z := rfl

theorem readCell_cons (z u : α) (c : Nat) (m : List (Nat × α)) (a : Nat) :
    readCell z ((c, u) :: m) a = if c = a then u else readCell z m a := rfl

theorem readCell_eraseCell (z : α) (m : List (Nat × α)) (a b : Nat) :
    readCell z (eraseCell m a) b = if b = a then z else readCell z m b := by
  induction m with
  | nil => simp [eraseCell]
  | cons c m ih =>
    obtain ⟨c, u⟩ := c
    simp only [eraseCell, readCell_cons]
    split
    · rw [ih]; grind
    · rw [readCell_cons, ih]; grind

theorem eraseCell_notMem (m : List (Nat × α)) (a : Nat) : ∀ c ∈ eraseCell m a, c.1 ≠ a ∧ c ∈ m := by
  induction m with
  | nil => simp [eraseCell]
  | cons c m ih =>
    obtain ⟨c, u⟩ := c
    simp only [eraseCell]
    split
    · intro x hx; exact ⟨(ih x hx).1, List.mem_cons_of_mem _ (ih x hx).2⟩
    · intro x hx
      rcases List.mem_cons.1 hx with rfl | hx
      · exact ⟨‹_›, List.mem_cons_self⟩
      · exact ⟨(ih x hx).1, List.mem_cons_of_mem _ (ih x hx).2⟩

theorem readCell_insertCell (z v : α) (m : List (Nat × α)) (a b : Nat) (h : ∀ c ∈ m, c.1 ≠ a) :
    readCell z (insertCell m a v) b = if b = a then v else readCell z m b := by
  induction m with
  | nil => simp [insertCell, readCell_cons, eq_comm]
  | cons c m ih =>
    obtain ⟨c, u⟩ := c
    have hc : c ≠ a := h (c, u) List.mem_cons_self
    have ih := ih fun x hx => h x (List.mem_cons_of_mem _ hx)
    simp only [insertCell]
    split
    · rw [readCell_cons, ih, readCell_cons]; grind
    · simp only [readCell_cons]; grind

theorem mem_insertCell (m : List (Nat × α)) (a : Nat) (v : α) (x : Nat × α) :
    x ∈ insertCell m a v ↔ x = (a, v) ∨ x ∈ m := by
  induction m with
  | nil => simp [insertCell]
  | cons c m ih =>
    obtain ⟨c, u⟩ := c
    simp only [insertCell]
    split
    · simp only [List.mem_cons, ih]; tauto
    · simp only [List.mem_cons]

/-- Reading after a write gives the value written there and what stood before elsewhere. -/
theorem readCell_writeCell [DecidableEq α] (z : α) (m : List (Nat × α)) (a b : Nat) (v : α) :
    readCell z (writeCell z m a v) b = if b = a then v else readCell z m b := by
  unfold writeCell
  split
  · rw [readCell_eraseCell]; simp_all
  · rw [readCell_insertCell _ _ _ _ _ fun c hc => (eraseCell_notMem m a c hc).1, readCell_eraseCell]
    grind

/-- Reading after a run of writes. -/
theorem readCell_writeRun [DecidableEq α] (z : α) (m : List (Nat × α)) (a b : Nat) (vs : List α) :
    readCell z (writeRun z m a vs) b =
      if a ≤ b ∧ b < a + vs.length then vs.getD (b - a) z else readCell z m b := by
  induction vs generalizing m a with
  | nil => simp [writeRun]
  | cons v vs ih =>
    rw [writeRun, ih, readCell_writeCell]
    simp only [List.length_cons]
    by_cases h : b = a
    · subst h; simp
    · by_cases h1 : a + 1 ≤ b ∧ b < a + 1 + vs.length
      · have h2 : a ≤ b ∧ b < a + (vs.length + 1) := by omega
        have h3 : b - a = (b - (a + 1)) + 1 := by omega
        rw [if_pos h1, if_pos h2, h3, List.getD_cons_succ]
      · have h2 : ¬(a ≤ b ∧ b < a + (vs.length + 1)) := by omega
        rw [if_neg h1, if_neg h2, if_neg h]

theorem cellsWf_cons [DecidableEq α] (z : α) (a : Nat) (v : α) (m : List (Nat × α)) :
    cellsWf z ((a, v) :: m) = true ↔ v ≠ z ∧ (∀ c ∈ m, a < c.1) ∧ cellsWf z m = true := by
  simp [cellsWf, and_assoc]

theorem cellsWf_ne [DecidableEq α] {z : α} {m : List (Nat × α)} (h : cellsWf z m = true) :
    ∀ c ∈ m, c.2 ≠ z := by
  induction m with
  | nil => simp
  | cons c m ih =>
    obtain ⟨c, u⟩ := c
    rw [cellsWf_cons] at h
    intro x hx
    rcases List.mem_cons.1 hx with rfl | hx
    · exact h.1
    · exact ih h.2.2 x hx

theorem cellsWf_eraseCell [DecidableEq α] {z : α} {m : List (Nat × α)} (a : Nat) (h : cellsWf z m = true) :
    cellsWf z (eraseCell m a) = true := by
  induction m with
  | nil => rfl
  | cons c m ih =>
    obtain ⟨c, u⟩ := c
    rw [cellsWf_cons] at h
    simp only [eraseCell]
    split
    · exact ih h.2.2
    · exact (cellsWf_cons ..).2 ⟨h.1, fun x hx => h.2.1 x (eraseCell_notMem m a x hx).2, ih h.2.2⟩

theorem cellsWf_insertCell [DecidableEq α] {z v : α} {m : List (Nat × α)} (a : Nat) (hv : v ≠ z)
    (hm : ∀ c ∈ m, c.1 ≠ a) (h : cellsWf z m = true) : cellsWf z (insertCell m a v) = true := by
  induction m with
  | nil => simp [insertCell, cellsWf, hv]
  | cons c m ih =>
    obtain ⟨c, u⟩ := c
    have hc : c ≠ a := hm (c, u) List.mem_cons_self
    rw [cellsWf_cons] at h
    simp only [insertCell]
    split
    · refine (cellsWf_cons ..).2 ⟨h.1, fun x hx => ?_, ih (fun x hx => hm x (List.mem_cons_of_mem _ hx)) h.2.2⟩
      rcases (mem_insertCell m a v x).1 hx with rfl | hx
      · assumption
      · exact h.2.1 x hx
    · refine (cellsWf_cons ..).2 ⟨hv, fun x hx => ?_, (cellsWf_cons ..).2 h⟩
      rcases List.mem_cons.1 hx with rfl | hx
      · show a < c; omega
      · have := h.2.1 x hx; omega

/-- A write keeps the canonical form. -/
theorem cellsWf_writeCell [DecidableEq α] {z : α} {m : List (Nat × α)} (a : Nat) (v : α)
    (h : cellsWf z m = true) : cellsWf z (writeCell z m a v) = true := by
  unfold writeCell
  split
  · exact cellsWf_eraseCell a h
  · exact cellsWf_insertCell a ‹_› (fun c hc => (eraseCell_notMem m a c hc).1) (cellsWf_eraseCell a h)

/-- A run of writes keeps the canonical form. -/
theorem cellsWf_writeRun [DecidableEq α] {z : α} {m : List (Nat × α)} (a : Nat) (vs : List α)
    (h : cellsWf z m = true) : cellsWf z (writeRun z m a vs) = true := by
  induction vs generalizing m a with
  | nil => exact h
  | cons v vs ih => exact ih _ (cellsWf_writeCell a v h)

/-- A cell after a write is the one written or one that stood there before. -/
theorem mem_writeCell [DecidableEq α] {z : α} {m : List (Nat × α)} {a : Nat} {v : α} {x : Nat × α}
    (h : x ∈ writeCell z m a v) : x = (a, v) ∧ v ≠ z ∨ x ∈ m ∧ x.1 ≠ a := by
  unfold writeCell at h
  split at h
  · exact .inr ⟨(eraseCell_notMem m a x h).2, (eraseCell_notMem m a x h).1⟩
  · rcases (mem_insertCell _ a v x).1 h with rfl | h
    · exact .inl ⟨rfl, ‹_›⟩
    · exact .inr ⟨(eraseCell_notMem m a x h).2, (eraseCell_notMem m a x h).1⟩

theorem cellsBelow_iff {bound : Nat} {m : List (Nat × α)} :
    cellsBelow bound m = true ↔ ∀ c ∈ m, c.1 < bound := by
  simp [cellsBelow]

/-- A write inside the bound keeps every address below it. -/
theorem cellsBelow_writeCell [DecidableEq α] {z : α} {bound : Nat} {m : List (Nat × α)} {a : Nat} (v : α)
    (ha : a < bound) (h : cellsBelow bound m = true) : cellsBelow bound (writeCell z m a v) = true := by
  rw [cellsBelow_iff] at *
  intro x hx
  rcases mem_writeCell hx with ⟨rfl, -⟩ | ⟨hx, -⟩
  · exact ha
  · exact h x hx

/-- In canonical form the cell of a listed address is the one read. -/
theorem mem_iff_readCell [DecidableEq α] {z : α} {m : List (Nat × α)} (h : cellsWf z m = true) (a : Nat) (v : α) :
    (a, v) ∈ m ↔ v ≠ z ∧ readCell z m a = v := by
  induction m with
  | nil => simp [eq_comm]
  | cons c m ih =>
    obtain ⟨c, u⟩ := c
    rw [cellsWf_cons] at h
    rw [List.mem_cons, readCell_cons, ih h.2.2]
    by_cases hc : c = a
    · subst hc
      have hne : ∀ w, (c, w) ∉ m := fun w hw => Nat.lt_irrefl _ (h.2.1 _ hw)
      have := hne v
      rw [ih h.2.2] at this
      simp only [Prod.mk.injEq, true_and, if_true]
      constructor
      · rintro (rfl | h') <;> [exact ⟨h.1, rfl⟩; exact absurd h' this]
      · rintro ⟨-, rfl⟩; exact .inl rfl
    · simp [hc, Ne.symm hc]

/-- Two buffers in canonical form that read alike everywhere are the same data. -/
theorem cells_ext [DecidableEq α] {z : α} {m m' : List (Nat × α)} (h : cellsWf z m = true)
    (h' : cellsWf z m' = true) (hr : ∀ a, readCell z m a = readCell z m' a) : m = m' := by
  induction m generalizing m' with
  | nil =>
    cases m' with
    | nil => rfl
    | cons c m' =>
      obtain ⟨c, u⟩ := c
      rw [cellsWf_cons] at h'
      have := hr c
      simp only [readCell_nil, readCell_cons, if_true] at this
      exact absurd this.symm h'.1
  | cons c m ih =>
    obtain ⟨c, u⟩ := c
    have hm := (cellsWf_cons ..).1 h
    cases m' with
    | nil =>
      have := hr c
      simp only [readCell_nil, readCell_cons, if_true] at this
      exact absurd this hm.1
    | cons d m' =>
      obtain ⟨d, w⟩ := d
      have hm' := (cellsWf_cons ..).1 h'
      have hc : (c, u) ∈ (d, w) :: m' :=
        (mem_iff_readCell h' c u).2 ⟨hm.1, by rw [← hr c, readCell_cons, if_pos rfl]⟩
      have hd : (d, w) ∈ (c, u) :: m :=
        (mem_iff_readCell h d w).2 ⟨hm'.1, by rw [hr d, readCell_cons, if_pos rfl]⟩
      have heq : (c, u) = (d, w) := by
        rcases List.mem_cons.1 hc with e | hc
        · exact e
        · rcases List.mem_cons.1 hd with e | hd
          · exact e.symm
          · have h1 := hm'.2.1 _ hc
            have h2 := hm.2.1 _ hd
            simp only at h1 h2
            omega
      obtain ⟨rfl, rfl⟩ := Prod.mk.injEq .. ▸ heq
      congr 1
      refine ih hm.2.2 hm'.2.2 fun a => ?_
      by_cases ha : c = a
      · subst ha
        have h1 : ∀ w, (c, w) ∉ m := fun w hw => Nat.lt_irrefl _ (hm.2.1 _ hw)
        have h2 : ∀ w, (c, w) ∉ m' := fun w hw => Nat.lt_irrefl _ (hm'.2.1 _ hw)
        have e1 := h1 (readCell z m c)
        have e2 := h2 (readCell z m' c)
        rw [mem_iff_readCell hm.2.2] at e1
        rw [mem_iff_readCell hm'.2.2] at e2
        simp only [and_true, not_not] at e1 e2
        rw [e1, e2]
      · have := hr a
        simpa [readCell_cons, ha] using this

end Sys2Proof.Machine
end

