-- ==== Sys2Proof/Laws/State.lean ====
section
/-! SUPPORT. One lemma per field per update of the state, so that no later proof unfolds a record update. -/

namespace Sys2Proof.Machine

variable (s : State)

/-! cbWrite -/

@[simp] theorem cbWrite_cfg (a : Nat) (v : Byte) : (cbWrite s a v).cfg = s.cfg := rfl
@[simp] theorem cbWrite_cb (a : Nat) (v : Byte) : (cbWrite s a v).cb = writeCell 0#8 s.cb a v := rfl
@[simp] theorem cbWrite_pb (a : Nat) (v : Byte) : (cbWrite s a v).pb = s.pb := rfl
@[simp] theorem cbWrite_busy (a : Nat) (v : Byte) : (cbWrite s a v).busy = s.busy := rfl
@[simp] theorem cbWrite_pos (a : Nat) (v : Byte) : (cbWrite s a v).pos = s.pos := rfl
@[simp] theorem cbWrite_ccr (a : Nat) (v : Byte) : (cbWrite s a v).ccr = s.ccr := rfl
@[simp] theorem cbWrite_out (a : Nat) (v : Byte) : (cbWrite s a v).out = s.out := rfl
@[simp] theorem cbWrite_torn (a : Nat) (v : Byte) : (cbWrite s a v).torn = s.torn := rfl
@[simp] theorem cbWrite_tear (a : Nat) (v : Byte) : (cbWrite s a v).tear = s.tear := rfl
@[simp] theorem cbWrite_pbold (a : Nat) (v : Byte) : (cbWrite s a v).pbold = s.pbold := rfl
@[simp] theorem cbWrite_halted (a : Nat) (v : Byte) : (cbWrite s a v).halted = s.halted := rfl
@[simp] theorem cbWrite_starting (a : Nat) (v : Byte) : (cbWrite s a v).starting = s.starting := rfl
@[simp] theorem cbWrite_host (a : Nat) (v : Byte) : (cbWrite s a v).host = s.host := rfl
@[simp] theorem cbWrite_choices (a : Nat) (v : Byte) : (cbWrite s a v).choices = s.choices := rfl
@[simp] theorem cbWrite_drawn (a : Nat) (v : Byte) : (cbWrite s a v).drawn = s.drawn := rfl

/-! pbFill -/

@[simp] theorem pbFill_cfg (vs : List Nat) : (pbFill s vs).cfg = s.cfg := rfl
@[simp] theorem pbFill_cb (vs : List Nat) : (pbFill s vs).cb = s.cb := rfl
@[simp] theorem pbFill_pb (vs : List Nat) : (pbFill s vs).pb = writeRun 0 s.pb 0 vs := rfl
@[simp] theorem pbFill_busy (vs : List Nat) : (pbFill s vs).busy = s.busy := rfl
@[simp] theorem pbFill_pos (vs : List Nat) : (pbFill s vs).pos = s.pos := rfl
@[simp] theorem pbFill_ccr (vs : List Nat) : (pbFill s vs).ccr = s.ccr := rfl
@[simp] theorem pbFill_out (vs : List Nat) : (pbFill s vs).out = s.out := rfl
@[simp] theorem pbFill_torn (vs : List Nat) : (pbFill s vs).torn = s.torn := rfl
@[simp] theorem pbFill_tear (vs : List Nat) : (pbFill s vs).tear = s.tear := rfl
@[simp] theorem pbFill_pbold (vs : List Nat) : (pbFill s vs).pbold = s.pbold := rfl
@[simp] theorem pbFill_halted (vs : List Nat) : (pbFill s vs).halted = s.halted := rfl
@[simp] theorem pbFill_starting (vs : List Nat) : (pbFill s vs).starting = s.starting := rfl
@[simp] theorem pbFill_host (vs : List Nat) : (pbFill s vs).host = s.host := rfl
@[simp] theorem pbFill_choices (vs : List Nat) : (pbFill s vs).choices = s.choices := rfl
@[simp] theorem pbFill_drawn (vs : List Nat) : (pbFill s vs).drawn = s.drawn := rfl

/-! dropChoice -/

@[simp] theorem dropChoice_cfg : (dropChoice s).cfg = s.cfg := rfl
@[simp] theorem dropChoice_cb : (dropChoice s).cb = s.cb := rfl
@[simp] theorem dropChoice_pb : (dropChoice s).pb = s.pb := rfl
@[simp] theorem dropChoice_busy : (dropChoice s).busy = s.busy := rfl
@[simp] theorem dropChoice_pos : (dropChoice s).pos = s.pos := rfl
@[simp] theorem dropChoice_ccr : (dropChoice s).ccr = s.ccr := rfl
@[simp] theorem dropChoice_out : (dropChoice s).out = s.out := rfl
@[simp] theorem dropChoice_torn : (dropChoice s).torn = s.torn := rfl
@[simp] theorem dropChoice_tear : (dropChoice s).tear = s.tear := rfl
@[simp] theorem dropChoice_pbold : (dropChoice s).pbold = s.pbold := rfl
@[simp] theorem dropChoice_halted : (dropChoice s).halted = s.halted := rfl
@[simp] theorem dropChoice_starting : (dropChoice s).starting = s.starting := rfl
@[simp] theorem dropChoice_host : (dropChoice s).host = s.host := rfl
@[simp] theorem dropChoice_choices : (dropChoice s).choices = s.choices.tail := rfl
@[simp] theorem dropChoice_drawn : (dropChoice s).drawn = s.drawn + 1 := rfl

/-! raiseHalt -/

@[simp] theorem raiseHalt_cfg : (raiseHalt s).cfg = s.cfg := rfl
@[simp] theorem raiseHalt_cb : (raiseHalt s).cb = s.cb := rfl
@[simp] theorem raiseHalt_pb : (raiseHalt s).pb = s.pb := rfl
@[simp] theorem raiseHalt_busy : (raiseHalt s).busy = s.busy := rfl
@[simp] theorem raiseHalt_pos : (raiseHalt s).pos = s.pos := rfl
@[simp] theorem raiseHalt_ccr : (raiseHalt s).ccr = s.ccr := rfl
@[simp] theorem raiseHalt_out : (raiseHalt s).out = s.out := rfl
@[simp] theorem raiseHalt_torn : (raiseHalt s).torn = s.torn := rfl
@[simp] theorem raiseHalt_tear : (raiseHalt s).tear = s.tear := rfl
@[simp] theorem raiseHalt_pbold : (raiseHalt s).pbold = s.pbold := rfl
@[simp] theorem raiseHalt_halted : (raiseHalt s).halted = true := rfl
@[simp] theorem raiseHalt_starting : (raiseHalt s).starting = s.starting := rfl
@[simp] theorem raiseHalt_host : (raiseHalt s).host = s.host := rfl
@[simp] theorem raiseHalt_choices : (raiseHalt s).choices = s.choices := rfl
@[simp] theorem raiseHalt_drawn : (raiseHalt s).drawn = s.drawn := rfl

/-! raiseBusy -/

@[simp] theorem raiseBusy_cfg : (raiseBusy s).cfg = s.cfg := rfl
@[simp] theorem raiseBusy_cb : (raiseBusy s).cb = s.cb := rfl
@[simp] theorem raiseBusy_pb : (raiseBusy s).pb = s.pb := rfl
@[simp] theorem raiseBusy_busy : (raiseBusy s).busy = true := rfl
@[simp] theorem raiseBusy_pos : (raiseBusy s).pos = 0 := rfl
@[simp] theorem raiseBusy_ccr : (raiseBusy s).ccr = s.ccr := rfl
@[simp] theorem raiseBusy_out : (raiseBusy s).out = s.out := rfl
@[simp] theorem raiseBusy_torn : (raiseBusy s).torn = s.torn := rfl
@[simp] theorem raiseBusy_tear : (raiseBusy s).tear = s.tear := rfl
@[simp] theorem raiseBusy_pbold : (raiseBusy s).pbold = s.pbold := rfl
@[simp] theorem raiseBusy_halted : (raiseBusy s).halted = s.halted := rfl
@[simp] theorem raiseBusy_starting : (raiseBusy s).starting = s.starting := rfl
@[simp] theorem raiseBusy_host : (raiseBusy s).host = s.host := rfl
@[simp] theorem raiseBusy_choices : (raiseBusy s).choices = s.choices := rfl
@[simp] theorem raiseBusy_drawn : (raiseBusy s).drawn = s.drawn := rfl

/-! endTransfer -/

@[simp] theorem endTransfer_cfg : (endTransfer s).cfg = s.cfg := rfl
@[simp] theorem endTransfer_cb : (endTransfer s).cb = s.cb := rfl
@[simp] theorem endTransfer_pb : (endTransfer s).pb = s.pb := rfl
@[simp] theorem endTransfer_busy : (endTransfer s).busy = false := rfl
@[simp] theorem endTransfer_pos : (endTransfer s).pos = s.pos := rfl
@[simp] theorem endTransfer_ccr : (endTransfer s).ccr = s.ccr := rfl
@[simp] theorem endTransfer_out : (endTransfer s).out = s.out := rfl
@[simp] theorem endTransfer_torn : (endTransfer s).torn = s.torn := rfl
@[simp] theorem endTransfer_tear : (endTransfer s).tear = false := rfl
@[simp] theorem endTransfer_pbold : (endTransfer s).pbold = s.pbold := rfl
@[simp] theorem endTransfer_halted : (endTransfer s).halted = s.halted := rfl
@[simp] theorem endTransfer_starting : (endTransfer s).starting = s.starting := rfl
@[simp] theorem endTransfer_host : (endTransfer s).host = s.host := rfl
@[simp] theorem endTransfer_choices : (endTransfer s).choices = s.choices := rfl
@[simp] theorem endTransfer_drawn : (endTransfer s).drawn = s.drawn := rfl

/-! clearTear -/

@[simp] theorem clearTear_cfg : (clearTear s).cfg = s.cfg := rfl
@[simp] theorem clearTear_cb : (clearTear s).cb = s.cb := rfl
@[simp] theorem clearTear_pb : (clearTear s).pb = s.pb := rfl
@[simp] theorem clearTear_busy : (clearTear s).busy = s.busy := rfl
@[simp] theorem clearTear_pos : (clearTear s).pos = s.pos := rfl
@[simp] theorem clearTear_ccr : (clearTear s).ccr = s.ccr := rfl
@[simp] theorem clearTear_out : (clearTear s).out = s.out := rfl
@[simp] theorem clearTear_torn : (clearTear s).torn = s.torn := rfl
@[simp] theorem clearTear_tear : (clearTear s).tear = false := rfl
@[simp] theorem clearTear_pbold : (clearTear s).pbold = s.pbold := rfl
@[simp] theorem clearTear_halted : (clearTear s).halted = s.halted := rfl
@[simp] theorem clearTear_starting : (clearTear s).starting = s.starting := rfl
@[simp] theorem clearTear_host : (clearTear s).host = s.host := rfl
@[simp] theorem clearTear_choices : (clearTear s).choices = s.choices := rfl
@[simp] theorem clearTear_drawn : (clearTear s).drawn = s.drawn := rfl

/-! markTorn -/

@[simp] theorem markTorn_cfg : (markTorn s).cfg = s.cfg := rfl
@[simp] theorem markTorn_cb : (markTorn s).cb = s.cb := rfl
@[simp] theorem markTorn_pb : (markTorn s).pb = s.pb := rfl
@[simp] theorem markTorn_busy : (markTorn s).busy = s.busy := rfl
@[simp] theorem markTorn_pos : (markTorn s).pos = s.pos := rfl
@[simp] theorem markTorn_ccr : (markTorn s).ccr = s.ccr := rfl
@[simp] theorem markTorn_out : (markTorn s).out = s.out := rfl
@[simp] theorem markTorn_torn : (markTorn s).torn = true := rfl
@[simp] theorem markTorn_tear : (markTorn s).tear = true := rfl
@[simp] theorem markTorn_pbold : (markTorn s).pbold = s.pb := rfl
@[simp] theorem markTorn_halted : (markTorn s).halted = s.halted := rfl
@[simp] theorem markTorn_starting : (markTorn s).starting = s.starting := rfl
@[simp] theorem markTorn_host : (markTorn s).host = s.host := rfl
@[simp] theorem markTorn_choices : (markTorn s).choices = s.choices := rfl
@[simp] theorem markTorn_drawn : (markTorn s).drawn = s.drawn := rfl

/-! setStarting -/

@[simp] theorem setStarting_cfg (b : Bool) : (setStarting s b).cfg = s.cfg := rfl
@[simp] theorem setStarting_cb (b : Bool) : (setStarting s b).cb = s.cb := rfl
@[simp] theorem setStarting_pb (b : Bool) : (setStarting s b).pb = s.pb := rfl
@[simp] theorem setStarting_busy (b : Bool) : (setStarting s b).busy = s.busy := rfl
@[simp] theorem setStarting_pos (b : Bool) : (setStarting s b).pos = s.pos := rfl
@[simp] theorem setStarting_ccr (b : Bool) : (setStarting s b).ccr = s.ccr := rfl
@[simp] theorem setStarting_out (b : Bool) : (setStarting s b).out = s.out := rfl
@[simp] theorem setStarting_torn (b : Bool) : (setStarting s b).torn = s.torn := rfl
@[simp] theorem setStarting_tear (b : Bool) : (setStarting s b).tear = s.tear := rfl
@[simp] theorem setStarting_pbold (b : Bool) : (setStarting s b).pbold = s.pbold := rfl
@[simp] theorem setStarting_halted (b : Bool) : (setStarting s b).halted = s.halted := rfl
@[simp] theorem setStarting_starting (b : Bool) : (setStarting s b).starting = b := rfl
@[simp] theorem setStarting_host (b : Bool) : (setStarting s b).host = s.host := rfl
@[simp] theorem setStarting_choices (b : Bool) : (setStarting s b).choices = s.choices := rfl
@[simp] theorem setStarting_drawn (b : Bool) : (setStarting s b).drawn = s.drawn := rfl

/-! deliver -/

@[simp] theorem deliver_cfg (v : Nat) : (deliver s v).cfg = s.cfg := rfl
@[simp] theorem deliver_cb (v : Nat) : (deliver s v).cb = s.cb := rfl
@[simp] theorem deliver_pb (v : Nat) : (deliver s v).pb = s.pb := rfl
@[simp] theorem deliver_busy (v : Nat) : (deliver s v).busy = s.busy := rfl
@[simp] theorem deliver_pos (v : Nat) : (deliver s v).pos = s.pos + 1 := rfl
@[simp] theorem deliver_ccr (v : Nat) : (deliver s v).ccr = v := rfl
@[simp] theorem deliver_out (v : Nat) : (deliver s v).out = s.out ++ [v] := rfl
@[simp] theorem deliver_torn (v : Nat) : (deliver s v).torn = s.torn := rfl
@[simp] theorem deliver_tear (v : Nat) : (deliver s v).tear = s.tear := rfl
@[simp] theorem deliver_pbold (v : Nat) : (deliver s v).pbold = s.pbold := rfl
@[simp] theorem deliver_halted (v : Nat) : (deliver s v).halted = s.halted := rfl
@[simp] theorem deliver_starting (v : Nat) : (deliver s v).starting = s.starting := rfl
@[simp] theorem deliver_host (v : Nat) : (deliver s v).host = s.host := rfl
@[simp] theorem deliver_choices (v : Nat) : (deliver s v).choices = s.choices := rfl
@[simp] theorem deliver_drawn (v : Nat) : (deliver s v).drawn = s.drawn := rfl

end Sys2Proof.Machine
end

