-- ==== Sys2Proof/Laws/Ops.lean ====
section
/-! SUPPORT. What the shared operations over state do, once each. -/

namespace Sys2Proof.Machine

/-! Reads after the updates that leave the buffers alone follow from these three. -/

theorem cbRead_congr {s t : State} (h : s.cb = t.cb) (a : Nat) : cbRead s a = cbRead t a := by
  simp [cbRead, h]

theorem pbRead_congr {s t : State} (h : s.pb = t.pb) (k : Nat) : pbRead s k = pbRead t k := by
  simp [pbRead, h]

theorem cbBytes_congr {s t : State} (hc : s.cfg = t.cfg) (h : s.cb = t.cb) : cbBytes s = cbBytes t := by
  have : cbRead s = cbRead t := funext (cbRead_congr h)
  simp [cbBytes, hc, this]

theorem pbEntries_congr {s t : State} (hc : s.cfg = t.cfg) (h : s.pb = t.pb) : pbEntries s = pbEntries t := by
  have : pbRead s = pbRead t := funext (pbRead_congr h)
  simp [pbEntries, hc, this]

/-- One byte write of the Color Buffer. -/
theorem cbRead_cbWrite (s : State) (a b : Nat) (v : Byte) :
    cbRead (cbWrite s a v) b = if b = a then v else cbRead s b :=
  readCell_writeCell ..

/-- Filling the Pulse Buffer from entry 0 on. -/
theorem pbRead_pbFill (s : State) (vs : List Nat) (k : Nat) :
    pbRead (pbFill s vs) k = if k < vs.length then vs.getD k 0 else pbRead s k := by
  rw [pbRead, pbFill, readCell_writeRun]
  simp [pbRead]

@[simp] theorem cbBytes_length (s : State) : (cbBytes s).length = 3 * s.cfg.n := by simp [cbBytes]

@[simp] theorem pbEntries_length (s : State) : (pbEntries s).length = s.cfg.len := by simp [pbEntries]

theorem cbBytes_getElem (s : State) (a : Nat) (h : a < (cbBytes s).length) : (cbBytes s)[a] = cbRead s a := by
  simp [cbBytes]

theorem pbEntries_getElem (s : State) (k : Nat) (h : k < (pbEntries s).length) : (pbEntries s)[k] = pbRead s k := by
  simp [pbEntries]

/-- The entries of a buffer filled with `L` values are those values. -/
theorem pbEntries_pbFill (s : State) (vs : List Nat) (h : vs.length = s.cfg.len) : pbEntries (pbFill s vs) = vs := by
  apply List.ext_getElem
  · simp [h]
  · intro k h1 h2
    rw [pbEntries_getElem, pbRead_pbFill, if_pos h2, List.getD_eq_getElem _ _ h2]

/-- With the oracle stream in hand the next choice is its head. -/
theorem nextChoice_cons {s : State} {b : Bool} {bs : List Bool} (h : s.choices = b :: bs) : nextChoice s = b := by
  simp [nextChoice, h]

/-- Where the state is not halted the guarded behaviour takes place. -/
theorem unlessHalted_of_running {s : State} (h : s.halted = false)
    (run : Host.Outcome State Fault Refusal) : unlessHalted s run = run := by simp [unlessHalted, h]

/-- A guarded behaviour that answers a next state ran, and the state is not halted. -/
theorem unlessHalted_next {s t : State} {run : Host.Outcome State Fault Refusal}
    (h : unlessHalted s run = .next t) : s.halted = false ∧ run = .next t := by
  unfold unlessHalted at h
  split at h
  · cases h
  · exact ⟨by simpa using ‹¬s.halted = true›, h⟩

/-- Setting HALTED at reset is the halt of 60_exceptions.md R103. -/
theorem resetWith_false (c : Config) : State.resetWith c false = raiseHalt (State.resetWith c true) := rfl

/-- The three stored bytes of a SETCOLOR and every byte it leaves alone (41_setcolor.md R68). -/
theorem cbRead_storeLed (s : State) (a b : Nat) (red green blue : Byte) :
    cbRead (storeLed s a red green blue) b =
      if b = a then gamma green else if b = a + 1 then gamma red else if b = a + 2 then gamma blue else cbRead s b := by
  simp only [storeLed, cbRead_cbWrite]
  grind

/-- SETCOLOR writes `CB` and nothing else (41_setcolor.md R68). -/
theorem storeLed_eq (s : State) (a : Nat) (red green blue : Byte) :
    storeLed s a red green blue = { s with cb := (storeLed s a red green blue).cb } := rfl

end Sys2Proof.Machine
end

