-- ==== Sys2Proof/Laws/Frame.lean ====
section
/-! SUPPORT. The frame of a list of bytes: its length and its entry at each slot (30_encoding.md R52, R54). -/

namespace Sys2Proof.Machine

variable (c : Config)

/-- The constraints of 00_scope.md R7 and R8 in one place. -/
theorem config_valid : 1 ≤ c.n ∧ c.n ≤ 32768 ∧ 1 ≤ c.gap ∧ 1 ≤ c.t0h ∧ c.t0h < c.t1h ∧ c.t1h < c.period ∧
    c.period ≤ 2 ^ c.pw ∧ 24 * c.n + c.gap ≤ 4294967295 :=
  let ⟨⟨h1, h2⟩, h3, ⟨h4, h5, h6⟩, h7, h8⟩ := c.valid
  ⟨h1, h2, h3, h4, h5, h6, h7, h8⟩

theorem pulse_cases (b : Bool) : pulse c b = c.t0h ∨ pulse c b = c.t1h := by
  cases b <;> simp [pulse]

@[simp] theorem bitsMsbFirst_length (v : Byte) : (bitsMsbFirst v).length = 8 := rfl

theorem bitsMsbFirst_getElem (v : Byte) (j : Nat) (h : j < (bitsMsbFirst v).length) :
    (bitsMsbFirst v)[j] = v.getLsbD (7 - j) := by
  simp only [bitsMsbFirst_length] at h
  interval_cases j <;> rfl

@[simp] theorem dataSlots_nil : dataSlots c [] = [] := rfl

theorem dataSlots_cons (v : Byte) (bytes : List Byte) :
    dataSlots c (v :: bytes) = (bitsMsbFirst v).map (pulse c) ++ dataSlots c bytes := rfl

@[simp] theorem dataSlots_length (bytes : List Byte) : (dataSlots c bytes).length = 8 * bytes.length := by
  induction bytes with
  | nil => rfl
  | cons v bytes ih => simp [dataSlots_cons, ih]; omega

/-- Slot `k` carries bit `7 - k mod 8` of byte `k div 8` (30_encoding.md R52). -/
theorem dataSlots_getElem (bytes : List Byte) (k : Nat) (h : k < (dataSlots c bytes).length)
    (h' : k / 8 < bytes.length) : (dataSlots c bytes)[k] = pulse c (bytes[k / 8].getLsbD (7 - k % 8)) := by
  induction bytes generalizing k with
  | nil => simp at h'
  | cons v bytes ih =>
    simp only [dataSlots_cons, List.getElem_append, List.length_map, bitsMsbFirst_length]
    split
    · rename_i hk
      have h0 : k / 8 = 0 := by omega
      have h1 : k % 8 = k := by omega
      simp [bitsMsbFirst_getElem, h0, h1]
    · rename_i hk
      have h0 : k / 8 = (k - 8) / 8 + 1 := by omega
      have h1 : k % 8 = (k - 8) % 8 := by omega
      have h2 : (k - 8) / 8 < bytes.length := by simp only [List.length_cons] at h'; omega
      rw [ih (k - 8) _ h2]
      simp [h0, h1]

@[simp] theorem frame_length (bytes : List Byte) : (frame c bytes).length = 8 * bytes.length + c.gap := by
  simp [frame]

/-- A frame of `3*N` bytes has `L` entries (30_encoding.md R54). -/
theorem frame_length_eq (bytes : List Byte) (h : bytes.length = 3 * c.n) : (frame c bytes).length = c.len := by
  simp [h, Params.len]; omega

/-- The entry of a frame at a data slot. -/
theorem frame_getElem_data (bytes : List Byte) (k : Nat) (h : k < (frame c bytes).length)
    (h' : k / 8 < bytes.length) : (frame c bytes)[k] = pulse c (bytes[k / 8].getLsbD (7 - k % 8)) := by
  have : k < (dataSlots c bytes).length := by simp; omega
  simp only [frame, List.getElem_append, this, dite_true]
  exact dataSlots_getElem c bytes k this h'

/-- The entry of a frame at a gap slot. -/
theorem frame_getElem_gap (bytes : List Byte) (k : Nat) (h : k < (frame c bytes).length)
    (h' : ¬ k / 8 < bytes.length) : (frame c bytes)[k] = 0 := by
  have : ¬ k < (dataSlots c bytes).length := by simp; omega
  simp [frame, List.getElem_append, show ¬ k < 8 * bytes.length by omega]

/-- Every entry of a frame is legal for its slot (30_encoding.md R53). -/
theorem frame_legal (bytes : List Byte) (hb : bytes.length = 3 * c.n) : LegalRun c (frame c bytes) := by
  intro k v hv
  obtain ⟨hk, rfl⟩ := List.getElem?_eq_some_iff.1 hv
  unfold legalAt Params.dataLen
  by_cases h : k / 8 < bytes.length
  · rw [frame_getElem_data c bytes k hk h, if_pos (by omega)]
    exact pulse_cases c _
  · rw [frame_getElem_gap c bytes k hk h, if_neg (by omega)]

end Sys2Proof.Machine
end

