-- ==== Sys2Proof/Laws/PerInstr.lean ====
section
/-! SUPPORT. The per-instruction family RowBits: the word of every command selects its own row of the opcode map
(30_encoding.md R49). -/

namespace Sys2Proof.Laws.RowBits

/-- The encoding of the command agrees with its row: `w AND mask = match` (30_encoding.md R49). -/
def Statement (i : Instr) : Prop := encode i &&& rowMask i = rowMatch i

theorem setcolor (idx : BitVec 16) (red green blue : Byte) : Statement (.setcolor idx red green blue) := by
  apply BitVec.eq_of_getLsbD_eq
  intro k hk
  simp only [encode, rowMask, rowMatch, BitVec.getLsbD_and, BitVec.getLsbD_append]
  interval_cases k <;> simp

theorem refresh : Statement .refresh := by
  unfold Statement
  decide

end Sys2Proof.Laws.RowBits
end

