-- ==== Sys2Proof/Laws/Step.lean ====
section
/-! SUPPORT. Everything a command, a tick, an event and a step can do, said once each. -/

namespace Sys2Proof.Machine

/-- SETCOLOR answers a next state exactly where the block is not halted, and this one (41_setcolor.md R68). -/
theorem execSetcolor_eq {s : State} (h : s.halted = false) (idx : BitVec 16) (red green blue : Byte) :
    execSetcolor idx red green blue s =
      .next (if validIndex s.cfg idx then storeLed s (ledBase idx) red green blue else s) :=
  unlessHalted_of_running h _

theorem execSetcolor_next {s t : State} {idx : BitVec 16} {red green blue : Byte}
    (h : execSetcolor idx red green blue s = .next t) :
    s.halted = false ∧ t = if validIndex s.cfg idx then storeLed s (ledBase idx) red green blue else s := by
  obtain ⟨h1, h2⟩ := unlessHalted_next h
  exact ⟨h1, by cases h2; rfl⟩

/-- A valid index is a natural number below `N`, and its three bytes lie inside the Color Buffer. -/
theorem validIndex_iff {c : Config} {idx : BitVec 16} :
    validIndex c idx = true ↔ ∃ i, i < c.n ∧ ledIndex idx = (i : Int) ∧ ledBase idx = 3 * i := by
  simp only [validIndex, Bool.and_eq_true, decide_eq_true_eq, ledBase]
  constructor
  · rintro ⟨h1, h2⟩
    exact ⟨(ledIndex idx).toNat, by omega, by omega, rfl⟩
  · rintro ⟨i, h1, h2, -⟩
    omega

/-- REFRESH answers a next state exactly where the block is not halted, and this one (42_refresh.md R75). -/
theorem execRefresh_eq {s : State} (h : s.halted = false) :
    execRefresh s = .next (if s.busy then setStarting (buildPhase s) true else startPhase (buildPhase s)) :=
  unlessHalted_of_running h _

theorem execRefresh_next {s t : State} (h : execRefresh s = .next t) :
    s.halted = false ∧ t = if s.busy then setStarting (buildPhase s) true else startPhase (buildPhase s) := by
  obtain ⟨h1, h2⟩ := unlessHalted_next h
  exact ⟨h1, by cases h2; rfl⟩

theorem buildPhase_idle {s : State} (h : s.busy = false) : buildPhase s = pbFill s (frame s.cfg (cbBytes s)) := by
  simp [buildPhase, h]

theorem buildPhase_busy {s : State} (h : s.busy = true) :
    buildPhase s = pbFill (markTorn s) (frame s.cfg (cbBytes s)) := by
  simp [buildPhase, h]

theorem startPhase_idle {s : State} (h : s.busy = false) :
    startPhase s = setStarting (clearTear (raiseBusy s)) false := by
  simp [startPhase, h]

theorem startPhase_busy {s : State} (h : s.busy = true) : startPhase s = setStarting (clearTear s) false := by
  simp [startPhase, h]

/-- The entries of `PB` after the build phase are the frame of the Color Buffer (42_refresh.md R77). -/
theorem pbEntries_buildPhase (s : State) : pbEntries (buildPhase s) = frame s.cfg (cbBytes s) := by
  unfold buildPhase
  apply pbEntries_pbFill
  rw [frame_length_eq _ _ (cbBytes_length s)]
  split <;> rfl

/-- A tick that answers a next state is idle and changes nothing, or delivers one entry (43_sequencer.md R88 to R92). -/
theorem tick_next {s t : State} (h : tick s = .next t) :
    s.halted = false ∧ ((s.busy = false ∧ t = s) ∨ (s.busy = true ∧ s.pos < s.cfg.len ∧ t = activeTick s)) := by
  obtain ⟨h1, h2⟩ := unlessHalted_next h
  refine ⟨h1, ?_⟩
  split at h2
  · split at h2
    · cases h2; exact .inr ⟨‹_›, ‹_›, rfl⟩
    · cases h2
  · cases h2; exact .inl ⟨by simpa using ‹¬s.busy = true›, rfl⟩

theorem tick_idle {s : State} (h : s.halted = false) (hb : s.busy = false) : tick s = .next s := by
  simp [tick, unlessHalted, h, hb]

theorem tick_active {s : State} (h : s.halted = false) (hb : s.busy = true) (hp : s.pos < s.cfg.len) :
    tick s = .next (activeTick s) := by
  simp [tick, unlessHalted, h, hb, hp]

/-- The state after an active tick, field by field (43_sequencer.md R88 to R90). -/
theorem activeTick_eq (s : State) :
    activeTick s =
      { s with
        ccr := tickValue s
        out := s.out ++ [tickValue s]
        pos := s.pos + 1
        busy := s.busy && decide (s.pos + 1 ≠ s.cfg.len)
        tear := s.tear && decide (s.pos + 1 ≠ s.cfg.len)
        choices := if s.tear then s.choices.tail else s.choices
        drawn := if s.tear then s.drawn + 1 else s.drawn } := by
  by_cases ht : s.tear = true <;> by_cases hc : s.pos + 1 = s.cfg.len <;>
    simp [activeTick, finishAtEnd, deliver, dropChoice, endTransfer, ht, hc]

/-- What a tick reads depends on the two buffers, `POS`, `TEAR` and the free choices alone. -/
theorem tickValue_congr {s t : State} (h1 : s.pb = t.pb) (h2 : s.pbold = t.pbold) (h3 : s.pos = t.pos)
    (h4 : s.tear = t.tear) (h5 : s.choices = t.choices) (h6 : s.drawn = t.drawn) : tickValue s = tickValue t := by
  simp [tickValue, nextChoice, pbRead, pboldRead, h1, h2, h3, h4, h5, h6]

/-- The value a tick delivers is the entry of the buffer, or of the old buffer in a torn window. -/
theorem tickValue_cases (s : State) :
    tickValue s = pbRead s s.pos ∨ (s.tear = true ∧ tickValue s = pboldRead s s.pos) := by
  unfold tickValue
  by_cases ht : s.tear = true
  · rw [if_pos ht]
    split
    · exact .inr ⟨ht, rfl⟩
    · exact .inl rfl
  · rw [if_neg ht]; exact .inl rfl

/-- `u` is `s` but for the host's list and the free choices: the block's own state is the same. -/
def SameBlock (s u : State) : Prop :=
  u = { s with host := u.host, choices := u.choices, drawn := u.drawn }

/-- What the next event can be, and the state in which it takes place. -/
theorem nextEvent_cases (s : State) :
    (s.halted = true ∧ nextEvent s = .stuck) ∨
      (s.halted = false ∧ ∃ u, SameBlock s u ∧
        ((nextEvent s = .tick u ∧ (s.starting = true → s.busy = true)) ∨
          (nextEvent s = .start u ∧ s.starting = true) ∨
          (nextEvent s = .bench u ∧ s.starting = false) ∨
          (∃ w, nextEvent s = .issue w u ∧ s.starting = false ∧ HostItem.command w ∈ s.host))) := by
  unfold nextEvent
  by_cases hh : s.halted = true
  · exact .inl ⟨hh, by simp [hh]⟩
  refine .inr ⟨by simpa using hh, ?_⟩
  rw [if_neg hh]
  by_cases hs : s.starting = true
  · rw [if_pos hs]
    unfold tickOr
    split
    · split
      · refine ⟨_, ?_, .inl ⟨rfl, fun _ => ‹_›⟩⟩; rfl
      · refine ⟨_, ?_, .inr (.inl ⟨rfl, hs⟩)⟩; rfl
    · refine ⟨s, ?_, .inr (.inl ⟨rfl, hs⟩)⟩; rfl
  · rw [if_neg hs]
    have hs' : s.starting = false := by simpa using hs
    unfold hostEvent
    split
    · refine ⟨s, ?_, .inl ⟨rfl, fun h => absurd h hs⟩⟩; rfl
    · rename_i w rest he
      unfold tickOr
      split
      · split
        · refine ⟨_, ?_, .inl ⟨rfl, fun h => absurd h hs⟩⟩; rfl
        · refine ⟨_, ?_, .inr (.inr (.inr ⟨w, rfl, hs', by simp [he]⟩))⟩; rfl
      · refine ⟨_, ?_, .inr (.inr (.inr ⟨w, rfl, hs', by simp [he]⟩))⟩; rfl
    · split
      · refine ⟨s, ?_, .inl ⟨rfl, fun h => absurd h hs⟩⟩; rfl
      · refine ⟨_, ?_, .inr (.inr (.inl ⟨rfl, hs'⟩))⟩; rfl
    · refine ⟨_, ?_, .inl ⟨rfl, fun h => absurd h hs⟩⟩; rfl
    · rename_i w rest he
      refine ⟨_, ?_, .inr (.inr (.inr ⟨w, rfl, hs', by simp [he]⟩))⟩; rfl
    · refine ⟨_, ?_, .inr (.inr (.inl ⟨rfl, hs'⟩))⟩; rfl

/-- Everything a step that answers a next state can have done: a tick, a start phase, a directive, or a command. -/
theorem step_next {s t : State} (h : step s = .next t) :
    s.halted = false ∧ ∃ u, SameBlock s u ∧
      ((tick u = .next t ∧ (s.starting = true → s.busy = true)) ∨
        (t = startPhase u ∧ s.starting = true) ∨
        (t = u ∧ s.starting = false) ∨
        (∃ w i, HostItem.command w ∈ s.host ∧ nextEvent s = .issue w u ∧ decode w = .command i ∧
          exec i u = .next t ∧ s.starting = false)) := by
  rcases nextEvent_cases s with ⟨-, he⟩ | ⟨hh, u, hu, he⟩
  · simp [step, he] at h
  refine ⟨hh, u, hu, ?_⟩
  rcases he with ⟨he, hb⟩ | ⟨he, hs⟩ | ⟨he, hs⟩ | ⟨w, he, hs, hw⟩
  · exact .inl ⟨by simpa [step, he] using h, hb⟩
  · exact .inr (.inl ⟨by simpa [step, he, eq_comm] using h, hs⟩)
  · exact .inr (.inr (.inl ⟨by simpa [step, he, eq_comm] using h, hs⟩))
  · refine .inr (.inr (.inr ?_))
    simp only [step, he, issue] at h
    split at h
    · rename_i i hi
      exact ⟨w, i, hw, he, hi, h, hs⟩
    · cases h

end Sys2Proof.Machine
end

