-- ==== Sys2Proof/Tests/Slice0.lean ====
section
/-! SUPPORT. Tests whose expected values stand in spec/95_test_vectors.md, the refusals of ill-formed terms, and a witness
for the hypotheses of every statement that has some. -/

namespace Sys2Proof.Tests

open Sys2Proof Sys2Proof.Machine

/-! Helpers -/

/-- The smallest strip: one LED, a gap of one entry, so `L = 25`. -/
def tiny : Config := ⟨⟨1, 1, 1, 2, 3, 2⟩, by decide⟩

/-- The next state an outcome holds, `s` where it holds none. -/
def after (s : State) : Host.Outcome State Fault Refusal → State
  | .next t => t
  | .fault _ => s
  | .refused _ => s

/-- The state after a command. -/
def ran (i : Instr) (s : State) : State := after s (exec i s)

def idle : State := State.resetWith tiny true
/-- A transfer in flight with nothing delivered. -/
def flying : State := ran .refresh idle
/-- Between the phases of an overlapping REFRESH. -/
def torn : State := ran .refresh (ran (.setcolor 0#16 0#8 255#8 0#8) flying)
def red1 : Instr := .setcolor 0#16 255#8 0#8 0#8
def grey1 : Instr := .setcolor 0#16 200#8 200#8 200#8

/-! Ill-formed terms are refused: every constraint of 00_scope.md R7 and R8, every range of 30_encoding.md R55 -/

theorem test_no_leds_refused : Config.build ⟨0, 50, 30, 60, 90, 16⟩ = none := by decide
theorem test_too_many_leds_refused : Config.build ⟨32769, 50, 30, 60, 90, 16⟩ = none := by decide
theorem test_no_gap_refused : Config.build ⟨3, 0, 30, 60, 90, 16⟩ = none := by decide
theorem test_zero_t0h_refused : Config.build ⟨3, 50, 0, 60, 90, 16⟩ = none := by decide
theorem test_equal_pulses_refused : Config.build ⟨3, 50, 60, 60, 90, 16⟩ = none := by decide
theorem test_t1h_of_a_period_refused : Config.build ⟨3, 50, 30, 90, 90, 16⟩ = none := by decide
theorem test_period_beyond_width_refused : Config.build ⟨3, 50, 30, 60, 65537, 16⟩ = none := by decide
theorem test_frame_too_long_refused : Config.build ⟨1, 4294967272, 30, 60, 90, 16⟩ = none := by decide
theorem test_longest_frame_built : (Config.build ⟨32768, 4294180863, 30, 60, 65536, 16⟩).isSome = true := by decide
theorem test_index_ranges_refused :
    (AsmLine.setcolor 32768 0 0 0).wellFormed = false ∧ (AsmLine.setcolor (-32769) 0 0 0).wellFormed = false := by decide
theorem test_red_ranges_refused :
    (AsmLine.setcolor 0 256 0 0).wellFormed = false ∧ (AsmLine.setcolor 0 (-1) 0 0).wellFormed = false := by decide
theorem test_green_ranges_refused :
    (AsmLine.setcolor 0 0 256 0).wellFormed = false ∧ (AsmLine.setcolor 0 0 (-1) 0).wellFormed = false := by decide
theorem test_blue_ranges_refused :
    (AsmLine.setcolor 0 0 0 256).wellFormed = false ∧ (AsmLine.setcolor 0 0 0 (-1)).wellFormed = false := by decide
theorem test_extreme_lines_wellFormed :
    (AsmLine.setcolor 32767 255 255 255).wellFormed = true ∧ (AsmLine.setcolor (-32768) 0 0 0).wellFormed = true := by decide

/-! Decoding: words written out bit by bit from 30_encoding.md R46 and R47, and words of 95_test_vectors.md 2.2 -/

theorem test_decode_setcolor_bits :
    decode 0b000000010000000000000001111111111000000000001111#48 = .command (.setcolor 1#16 255#8 128#8 15#8) := by decide
theorem test_decode_refresh_bits :
    decode 0b000000100000000000000000000000000000000000000000#48 = .command .refresh := by decide
theorem test_decode_extreme_indices :
    decode 0x017FFF000000#48 = .command (.setcolor (BitVec.ofInt 16 32767) 0#8 0#8 0#8) ∧
      decode 0x018000000000#48 = .command (.setcolor (BitVec.ofInt 16 (-32768)) 0#8 0#8 0#8) := by decide
theorem test_decode_reserved :
    decode 0x02FFFFFFFFFF#48 = .reserved (.refreshField 0xFFFFFFFFFF#40) ∧
      decode 0x030000000000#48 = .reserved (.opcode 3#8) := by decide
theorem test_encode_spec_word : encode (.setcolor 15#16 200#8 100#8 50#8) = 0x01000FC86432#48 := by decide
theorem test_table_word : decodeTableWord 48 0x010000000000 = some (.setcolor 0#16 0#8 0#8 0#8) ∧
    decodeTableWord 48 0x020000000000 = some .refresh ∧ decodeTableWord 48 0 = none ∧ decodeTableWord 56 1 = none := by decide

/-! Assembler text: lines of the programs P1 to P3 with the words beside them (95_test_vectors.md part 3) -/

theorem test_assemble_p3_lines :
    assembleText ["SETCOLOR 1, 10, 20, 30         ; index".toList, "SETCOLOR -32768, 255, 255, 255".toList, "".toList,
        "SETCOLOR 0, 0, 0xFF, 0".toList, "REFRESH".toList, "TICKS 5".toList, "WAITIDLE ; end".toList] =
      some [.command 0x0100010A141E#48, .command 0x018000FFFFFF#48, .command 0x01000000FF00#48,
        .command 0x020000000000#48, .ticks 5, .waitIdle] := by decide +kernel
theorem test_assembly_errors :
    assembleText ["SETCOLOR 0, 0, 256, 0".toList] = none ∧ assembleText ["refresh".toList] = none ∧
      assembleText ["SETCOLOR 0, 0, 0".toList] = none := by decide +kernel

/-! Gamma (95_test_vectors.md 2.1) -/

theorem test_gamma_values : [0, 14, 15, 24, 25, 64, 100, 127, 128, 156, 167, 170, 186, 187, 200, 253, 254, 255].map
    (fun v => (gamma (BitVec.ofNat 8 v)).toNat) =
      [0, 0, 1, 1, 2, 12, 33, 55, 56, 87, 100, 105, 127, 129, 149, 251, 253, 255] := by decide
theorem test_gamma_sum : (gromTable.map BitVec.toNat).sum = 20443 ∧ gromTable.length = 256 := by decide +kernel

/-! SETCOLOR (95_test_vectors.md 2.3) -/

theorem test_setcolor_stores_grb :
    cbBytes (ran (.setcolor 1#16 255#8 128#8 15#8) State.reset) = [0, 0, 0, 56, 255, 1, 0, 0, 0] := by decide
theorem test_setcolor_index_n_ignored : ran (.setcolor 3#16 255#8 255#8 255#8) State.reset = State.reset := by decide

/-! REFRESH (95_test_vectors.md 2.4 and 2.7) -/

theorem test_refresh_frame :
    pbEntries (ran .refresh (ran (.setcolor 1#16 255#8 128#8 15#8) State.reset)) =
      List.replicate 26 30 ++ List.replicate 3 60 ++ List.replicate 3 30 ++ List.replicate 8 60 ++ List.replicate 7 30 ++
        [60] ++ List.replicate 24 30 ++ List.replicate 50 0 := by decide +kernel
theorem test_refresh_while_busy_marks : torn.torn = true ∧ torn.tear = true ∧ torn.busy = true ∧ torn.pos = 0 ∧
    pboldRead torn 0 = 1 ∧ pbRead torn 0 = 2 := by decide +kernel
theorem test_slots : slot 0 0 7 = 0 ∧ slot 0 1 7 = 8 ∧ slot 0 2 0 = 23 ∧ slot 1 0 7 = 24 ∧ slot 2 2 0 = 71 ∧
    slot 15 2 0 = 383 := by decide

/-! The sequencer and the output stage (95_test_vectors.md 2.5) -/

theorem test_first_tick_delivers :
    let s := ran .refresh (ran (.setcolor 0#16 0#8 255#8 0#8) State.reset)
    let t := after s (tick s)
    t.ccr = 60 ∧ t.out = [60] ∧ t.pos = 1 ∧ t.busy = true := by decide +kernel
theorem test_last_tick_ends :
    let s := { flying with pos := 24 }
    let t := after s (tick s)
    t.ccr = 0 ∧ t.pos = 25 ∧ t.busy = false := by decide +kernel
theorem test_waveform_of_t0h : waveform .highFirst Config.ref3 30 =
    some (List.replicate 30 true ++ List.replicate 60 false) := by decide

/-! The step takes a placed word first after reset, and refuses a reserved one -/

theorem test_placed_refresh_runs : (after idle (step (State.reset.withFetchWord 48 0x020000000000))).busy = true := by
  decide +kernel
theorem test_placed_setcolor_runs :
    cbBytes (after idle (step (State.reset.withFetchWord 48 0x01000000FF00))) = [255, 0, 0, 0, 0, 0, 0, 0, 0] := by
  decide +kernel
theorem test_reserved_word_refused : step (idle.withFetchWord 48 0) = .refused (.reservedWord (.opcode 0#8)) := rfl
theorem test_position_outside_buffer_faults :
    tick { idle with busy := true, pos := 25 } = .fault (.noSuchLocation 25) := rfl

/-! Witnesses: a state and operands that meet the hypotheses of each statement, at the ends of its clauses' ranges -/

/-- Shared by RefreshBuildsTheFrame, RefreshWhileIdleStartsTheTransfer, RefreshWhileBusyTearsTheFrame, PlacedWordRunsNext and
IdleTickChangesNothing (with witness_idle_inv). -/
theorem witness_running_states : idle.halted = false ∧ idle.busy = false ∧ idle.starting = false ∧ flying.halted = false ∧
    flying.busy = true ∧ flying.tear = false ∧ flying.starting = false ∧ torn.halted = false ∧ torn.busy = true ∧
    torn.tear = true ∧ torn.starting = true := by decide +kernel

theorem witness_idle_inv : idle.Inv := by
  constructor <;> decide

theorem witness_flying_inv : flying.Inv := by
  constructor <;> decide +kernel

theorem witness_torn_inv : torn.Inv := by
  constructor <;> decide +kernel

/-- Shared by DecodeAndEncodeAreInverse. -/
theorem witness_DecodedFieldsAreTheFormatsBits : decode 0x010001FF800F#48 = .command (.setcolor 1#16 255#8 128#8 15#8) := by
  decide

theorem witness_ReservedWordsAreRefused : decode 0#48 = .reserved (.opcode 0#8) ∧ idle.halted = false ∧ idle.starting = false ∧
    ({ idle with host := [.command 0#48] }.host = .command 0#48 :: [] ∧ idle.busy = false) ∧
    { flying with host := [.ticks 0, .command 0#48] }.host = .ticks 0 :: .command 0#48 :: [] := by decide +kernel

theorem witness_AssemblerKeepsOperandsOrRefuses :
    assemble (.setcolor (-32768) 255 0 255) = some (.command 0x018000FF00FF#48) ∧
      assemble (.setcolor 32768 0 0 0) = none := by decide

theorem witness_ConfigurationsMeetTheConstraints :
    ∃ c, Config.build ⟨1, 1, 1, 2, 3, 2⟩ = some c ∧ c.toParams = ⟨1, 1, 1, 2, 3, 2⟩ := ⟨tiny, by decide, rfl⟩

theorem witness_SlotsNumberTheDataRegion : (0 : Nat) < 1 ∧ 2 < 3 ∧ 7 < 8 ∧ slot 0 2 0 = 23 ∧ 23 < 24 * 1 := by decide

/-- The first and the last bit, and the only gap slot, of a one-LED frame. -/
theorem witness_FrameHoldsBitsThenGap : [1#8, 0#8, 128#8].length = 3 * tiny.n ∧
    (frame tiny [1#8, 0#8, 128#8])[8 * 0 + (7 - 0)]? = some 2 ∧ (frame tiny [1#8, 0#8, 128#8])[8 * 2 + (7 - 7)]? = some 2 ∧
    24 * tiny.n ≤ 24 ∧ 24 < tiny.len ∧ (frame tiny [1#8, 0#8, 128#8])[24]? = some 0 := by decide

theorem witness_FrameCanBeDecodedBack :
    [1#8, 0#8, 128#8].length = 3 * tiny.n ∧ frame tiny [1#8, 0#8, 128#8] = frame tiny [1#8, 0#8, 128#8] := by decide

/-- The first and the last valid index, and the first index on either side of them. -/
theorem witness_SetcolorStoresCorrectedBytes : State.reset.halted = false ∧ (State.resetWith tiny false).halted = true ∧ (0 < State.reset.cfg.n ∧ (0#16).toInt = ((0 : Nat) : Int)) ∧
    (2 < State.reset.cfg.n ∧ (2#16).toInt = ((2 : Nat) : Int)) ∧
    ¬ (0 ≤ (3#16).toInt ∧ (3#16).toInt < (State.reset.cfg.n : Int)) ∧
    ¬ (0 ≤ (0xFFFF#16).toInt ∧ (0xFFFF#16).toInt < (State.reset.cfg.n : Int)) := by decide

theorem witness_SetcolorIndexCornerCases : State.reset.halted = false ∧ State.reset.cfg.n < 32768 := by decide

theorem witness_SetcolorFrame : exec red1 idle = .next (ran red1 idle) ∧
    ¬ (validIndex tiny 0#16 = true ∧ ledBase 0#16 ≤ 3 ∧ 3 ≤ ledBase 0#16 + 2) ∧
    cellsBelow (3 * idle.cfg.n) idle.cb = true := ⟨rfl, by decide, by decide⟩

theorem witness_LaterSetcolorReplacesEarlier : cellsWf 0#8 idle.cb = true ∧ exec grey1 idle = .next (ran grey1 idle) ∧
    exec red1 (ran grey1 idle) = .next (ran red1 (ran grey1 idle)) ∧ exec red1 idle = .next (ran red1 idle) :=
  ⟨rfl, rfl, rfl, rfl⟩

theorem witness_SetcolorsToDifferentLedsCommute : (0#16 : BitVec 16) ≠ 2#16 ∧ cellsWf 0#8 State.reset.cb = true ∧
    exec red1 State.reset = .next (ran red1 State.reset) ∧
    exec (.setcolor 2#16 10#8 20#8 30#8) State.reset = .next (ran (.setcolor 2#16 10#8 20#8 30#8) State.reset) :=
  ⟨by decide, rfl, rfl, rfl⟩

/-- Shared by SetcolorAndTickCommute, SequencerIgnoresTheColorBuffer, TickDeliversTheEntryAtPos, TornTickDeliversOldOrNew,
and, as the step of `flying`, by ParametersAndHaltedNeverChange, OutGrowsByWhatReachesCcr and PosAdvancesByOneOrRestarts. -/
theorem witness_ticks : tick flying = .next (after flying (tick flying)) ∧ flying.pos < flying.cfg.len ∧
    torn.pos < torn.cfg.len ∧ { torn with choices := [true] }.choices = true :: [] ∧
    step flying = .next (after flying (step flying)) := ⟨rfl, by decide, by decide +kernel, rfl, rfl⟩

/-- Shared by RefreshFrame, with BUSY = 0 and BUSY = 1, and by RefreshDependsOnColorsAlone. -/
theorem witness_refresh_runs : exec .refresh idle = .next (ran .refresh idle) ∧ exec .refresh flying = .next (ran .refresh flying) ∧
    idle.cfg = flying.cfg ∧ ∀ a, a < 3 * idle.cfg.n → cbRead idle a = cbRead flying a := ⟨rfl, rfl, rfl, by decide⟩

/-- Two configurations that agree on `N`, `GAP`, `T0H` and `T1H` alone, and an entry with one value in both buffers. -/
theorem witness_RefreshDependsOnColorsAlone :
    let other : State := State.resetWith ⟨⟨1, 1, 1, 2, 9, 4⟩, by decide⟩ true
    (idle.cfg.n = other.cfg.n ∧ idle.cfg.gap = other.cfg.gap ∧ idle.cfg.t0h = other.cfg.t0h ∧ idle.cfg.t1h = other.cfg.t1h) ∧
      (∀ a, a < 3 * idle.cfg.n → cbRead idle a = cbRead other a) ∧ exec .refresh other = .next (ran .refresh other) ∧
      pboldRead { torn with pos := 24 } 24 = pbRead { torn with pos := 24 } 24 := by
  refine ⟨by decide, by decide, rfl, by decide +kernel⟩

/-- The last tick of a transfer, the tick before it, and the first. -/
theorem witness_LastTickEndsTheTransfer : flying.Inv ∧ flying.busy = true ∧ flying.pos = 0 ∧
    { flying with pos := 24 }.Inv ∧ { torn with pos := 23 }.Inv ∧ 25 ≤ flying.cfg.len :=
  ⟨witness_flying_inv, rfl, rfl, by constructor <;> decide +kernel, by constructor <;> decide +kernel, by decide⟩

/-- A Color Buffer of zeros and one of 255s. -/
theorem witness_RefreshOfUniformColors : (∀ a, a < 3 * idle.cfg.n → cbRead idle a = 0#8) ∧
    (∀ a, a < 3 * tiny.n → cbRead { idle with cb := [(0, 255#8), (1, 255#8), (2, 255#8)] } a = 255#8) := by decide

theorem witness_StartIsHonouredOrDropped : { torn with busy := false }.halted = false ∧ { torn with busy := false }.starting = true ∧
    { torn with busy := false }.busy = false ∧ { torn with choices := [false] }.busy = true ∧
    { torn with choices := [false] }.choices = false :: [] := by decide +kernel

/-- The first and the last tick count of a transfer. -/
theorem witness_CleanTransferDeliversOneFrame : idle.halted = false ∧ idle.busy = false ∧ 0 ≤ idle.cfg.len ∧
    25 ≤ idle.cfg.len := by decide

theorem witness_no_broken_rule (s : State) (h : s.host = []) (hs : s.starting = false) : ¬ BreaksRule s := by
  rintro ⟨w, t, hp, -⟩
  unfold Presents nextEvent at hp
  split at hp
  · cases hp
  · simp [hs, hostEvent, h] at hp

theorem witness_TransferInFlightKeepsDelivering : flying.busy = true ∧ flying.tear = false ∧ flying.starting = false ∧
    flying.pos < flying.cfg.len ∧ pbEntries flying = pbEntries flying ∧ flying.out = [] ++ (pbEntries flying).take flying.pos ∧
    step flying = .next (after flying (step flying)) ∧ ¬ BreaksRule flying :=
  ⟨rfl, rfl, rfl, by decide, rfl, rfl, rfl, witness_no_broken_rule _ rfl rfl⟩

theorem witness_TransferRunsToCompletion : flying.Inv ∧ flying.busy = true ∧ flying.starting = false ∧ flying.host = [] ∧
    24 < flying.cfg.len - flying.pos := ⟨witness_flying_inv, rfl, rfl, rfl, by decide⟩

/-- A list of one REFRESH, as it stands on the port, after `TICKS 0`, and with the choice in either hand. -/
theorem witness_StepRunsTheDecodedCommand :
    decode 0x020000000000#48 = .command .refresh ∧
      { idle with host := [.command 0x020000000000#48] }.host = .command 0x020000000000#48 :: [] ∧
      { flying with host := [.ticks 0, .command 0x020000000000#48] }.host = .ticks 0 :: .command 0x020000000000#48 :: [] ∧
      { flying with host := [.command 0x020000000000#48], choices := [true] }.choices = true :: [] ∧
      { flying with host := [.command 0x020000000000#48], choices := [false] }.choices = false :: [] := by decide +kernel

theorem witness_TicksDirectivePinsTheTicks :
    let s := { flying with host := [.ticks 2, .command 0x020000000000#48] }
    s.halted = false ∧ s.starting = false ∧ s.host = .ticks 2 :: .command 0x020000000000#48 :: [] ∧
      tickN 2 s = .next (after s (tickN 2 s)) := ⟨rfl, rfl, rfl, rfl⟩

theorem witness_WaitIdleHoldsTheHost : { flying with host := [.waitIdle] }.host = .waitIdle :: [] ∧
    { flying with host := [.waitIdle] }.busy = true ∧ { idle with host := [.waitIdle] }.busy = false := ⟨rfl, rfl, rfl⟩

theorem witness_HaltedIsStuck : (State.resetWith tiny false).halted = true := rfl

theorem witness_RefreshThenWaitDeliversTheFrame :
    let s := { idle with host := [.command (encode .refresh), .waitIdle] }
    s.halted = false ∧ s.busy = false ∧ s.starting = false ∧ s.host = .command (encode .refresh) :: .waitIdle :: [] :=
  ⟨rfl, rfl, rfl, rfl⟩

/-- One state that meets all the premises, between the phases of an overlapping REFRESH with a command and a directive to come. -/
theorem witness_EveryRunComesToItsEnd :
    let s := { torn with host := [.command 0x020000000000#48, .ticks 3] }
    s.Inv ∧ s.halted = false ∧ s.HostDecodes := by
  refine ⟨by constructor <;> decide +kernel, rfl, fun w hw => ⟨.refresh, ?_⟩⟩
  have : w = 0x020000000000#48 := by simpa using hw
  subst this
  decide

theorem witness_EveryMixtureThenDroppedStart :
    let s := { torn with choices := [true, false, true, true, false] }
    s.halted = false ∧ s.busy = true ∧ s.tear = true ∧ s.starting = true ∧ s.pos + [false, true].length < s.cfg.len ∧
      s.choices = [false, true].flatMap (fun b => [true, b]) ++ false :: [] := by decide +kernel

theorem witness_EveryMixtureThenHonouredStart :
    let s := { torn with choices := [true, false, true, true], pos := 23 }
    s.halted = false ∧ s.busy = true ∧ s.tear = true ∧ s.starting = true ∧ s.pos < s.cfg.len ∧
      s.pos + [false, true].length = s.cfg.len ∧ s.choices = [false, true].flatMap (fun b => [true, b]) ++ [] := by
  decide +kernel

theorem witness_StepKeepsTheInvariant : flying.Inv ∧ step flying = .next (after flying (step flying)) :=
  ⟨witness_flying_inv, rfl⟩

theorem witness_StepKeepsColorsInTheGammaImage : idle.ColorsInImage ∧ step idle = .next idle :=
  ⟨fun _ => ⟨0#8, rfl⟩, rfl⟩

theorem witness_StepKeepsFramesWellShaped : flying.Inv ∧ flying.OutShaped :=
  ⟨witness_flying_inv, [], [], rfl, by simp, fun k v h => by simp at h, rfl⟩

theorem witness_StepKeepsUntornFramesWhole : flying.OutWhole := fun _ =>
  ⟨[], by simp, rfl, fun _ => ⟨[0#8, 0#8, 0#8], rfl, by decide +kernel⟩⟩

/-- Both sides of the rule: a step that breaks it and one that does not. -/
theorem witness_OnlyABrokenRuleSetsTorn :
    let s := { flying with host := [.ticks 0, .command 0x020000000000#48] }
    BreaksRule s ∧ step s = .next (after s (step s)) ∧ ¬ BreaksRule flying :=
  ⟨⟨0x020000000000#48, { flying with host := [] }, rfl, by decide, rfl⟩, rfl, witness_no_broken_rule _ rfl rfl⟩

theorem witness_EachBufferHasOneWriter :
    let s := idle.withFetchWord 48 0x01000000FF00
    let t := flying.withFetchWord 48 0x020000000000
    step s = .next (after s (step s)) ∧ (after s (step s)).cb ≠ s.cb ∧
      step { t with cb := [(0, 1#8)] } = .next (after t (step { t with cb := [(0, 1#8)] })) ∧
      (after t (step { t with cb := [(0, 1#8)] })).pb ≠ t.pb := ⟨rfl, by decide +kernel, rfl, by decide +kernel⟩

/-- The step that raises BUSY and the one that clears it. -/
theorem witness_WhatRaisesAndClearsBusy :
    let s := idle.withFetchWord 48 0x020000000000
    let t := { flying with pos := 24 }
    (s.busy = false ∧ (after s (step s)).busy = true) ∧ t.busy = true ∧ (after t (step t)).busy = false := by decide +kernel

theorem witness_EveryEntryIsBelowThePeriod : flying.Inv ∧ flying.cfg.dataLen ≤ 24 := ⟨witness_flying_inv, by decide⟩

/-- The clauses at the ends of their ranges: no pulse, the widest pulse, and the first value without a waveform. -/
theorem witness_LineIsHighForCcrTicks : 0 < tiny.period ∧ 2 < tiny.period ∧ tiny.period ≤ 3 ∧
    waveform .highFirst tiny 0 = some [false, false, false] ∧ waveform .highFirst tiny 2 = some [true, true, false] ∧
    waveform .highFirst tiny 3 = none := by decide

theorem witness_ReadBackReachesEveryLocation : 2 < 3 * idle.cfg.n ∧ 3 * idle.cfg.n ≤ 3 ∧ 24 < idle.cfg.len ∧
    idle.cfg.len ≤ 25 := by decide

end Sys2Proof.Tests
end

section
/-! SUPPORT. TORN along a step (10_state.md R21): which event a step takes, what each event does to TORN, and which event
breaks the ordering rule. -/

namespace Sys2Proof.Machine

/-! The event of a step -/

theorem SameBlock.torn_eq {s u : State} (h : SameBlock s u) : u.torn = s.torn := by rw [h]

/-- A step that answers a next state, by the event it takes: `step_next` with the event kept in every case. -/
theorem step_next_event {s t : State} (h : step s = .next t) :
    ∃ u, SameBlock s u ∧
      ((nextEvent s = .tick u ∧ tick u = .next t) ∨
        (nextEvent s = .start u ∧ t = startPhase u) ∨
        (nextEvent s = .bench u ∧ t = u) ∨
        (∃ w i, nextEvent s = .issue w u ∧ decode w = .command i ∧ exec i u = .next t)) := by
  rcases nextEvent_cases s with ⟨-, he⟩ | ⟨-, u, hu, he⟩
  · simp [step, he] at h
  refine ⟨u, hu, ?_⟩
  rcases he with ⟨he, -⟩ | ⟨he, -⟩ | ⟨he, -⟩ | ⟨w, he, -, -⟩
  · exact .inl ⟨he, by simpa [step, he] using h⟩
  · exact .inr (.inl ⟨he, by simpa [step, he, eq_comm] using h⟩)
  · exact .inr (.inr (.inl ⟨he, by simpa [step, he, eq_comm] using h⟩))
  · simp only [step, he, issue] at h
    split at h
    · exact .inr (.inr (.inr ⟨w, _, he, ‹_›, h⟩))
    · cases h

/-! What each event does to TORN -/

theorem tick_torn {s t : State} (h : tick s = .next t) : t.torn = s.torn := by
  obtain ⟨-, ⟨-, rfl⟩ | ⟨-, -, rfl⟩⟩ := tick_next h
  · rfl
  · rw [activeTick_eq]

@[simp] theorem startPhase_torn (s : State) : (startPhase s).torn = s.torn := by
  cases hb : s.busy
  · simp [startPhase_idle hb]
  · simp [startPhase_busy hb]

theorem buildPhase_torn (s : State) : (buildPhase s).torn = (s.torn || s.busy) := by
  cases hb : s.busy
  · simp [buildPhase_idle hb]
  · simp [buildPhase_busy hb]

theorem execSetcolor_torn {s t : State} {idx : BitVec 16} {red green blue : Byte}
    (h : execSetcolor idx red green blue s = .next t) : t.torn = s.torn := by
  obtain ⟨-, rfl⟩ := execSetcolor_next h
  split
  · rw [storeLed_eq]
  · rfl

/-- Both branches of REFRESH end with the mark of the build phase (42_refresh.md R78, R79). -/
theorem execRefresh_torn {s t : State} (h : execRefresh s = .next t) : t.torn = (s.torn || s.busy) := by
  obtain ⟨-, rfl⟩ := execRefresh_next h
  split
  · rw [setStarting_torn, buildPhase_torn]
  · rw [startPhase_torn, buildPhase_torn]

theorem exec_torn_iff {i : Instr} {s t : State} (h : exec i s = .next t) :
    t.torn = true ↔ s.torn = true ∨ (i = .refresh ∧ s.busy = true) := by
  cases i with
  | setcolor idx red green blue => simp [execSetcolor_torn h]
  | refresh => simp [execRefresh_torn h]

/-! Which event breaks the rule -/

theorem not_breaksRule_of_no_issue {s : State} (h : ∀ w u, nextEvent s ≠ .issue w u) : ¬ BreaksRule s := by
  rintro ⟨w, u, hp, -, -⟩
  exact h w u hp

theorem breaksRule_iff_of_issue {s u : State} {w : CommandWord} {i : Instr}
    (he : nextEvent s = .issue w u) (hd : decode w = .command i) :
    BreaksRule s ↔ i = .refresh ∧ u.busy = true := by
  constructor
  · rintro ⟨w', u', hp, hr, hb⟩
    obtain ⟨rfl, rfl⟩ : w = w' ∧ u = u' := by simpa [Presents, he] using hp
    exact ⟨by simpa [hd] using hr, hb⟩
  · rintro ⟨rfl, hb⟩
    exact ⟨w, u, he, hd, hb⟩

/-- Without a word on the port the rule is not broken, so R21 asks of the step only that it keeps `TORN`. -/
theorem torn_iff_of_no_issue {s t : State} (h : ∀ w u, nextEvent s ≠ .issue w u) (ht : t.torn = s.torn) :
    t.torn = true ↔ s.torn = true ∨ BreaksRule s := by
  simp [ht, not_breaksRule_of_no_issue h]

theorem step_torn_iff {s t : State} (h : step s = .next t) :
    t.torn = true ↔ s.torn = true ∨ BreaksRule s := by
  obtain ⟨u, hu, ⟨he, ht⟩ | ⟨he, rfl⟩ | ⟨he, rfl⟩ | ⟨w, i, he, hd, hx⟩⟩ := step_next_event h
  · exact torn_iff_of_no_issue (by simp [he]) ((tick_torn ht).trans hu.torn_eq)
  · exact torn_iff_of_no_issue (by simp [he]) ((startPhase_torn u).trans hu.torn_eq)
  · exact torn_iff_of_no_issue (by simp [he]) hu.torn_eq
  · rw [exec_torn_iff hx, hu.torn_eq, breaksRule_iff_of_issue he hd]

/-- Settles O51: a split over the event of the step; only an overlapping REFRESH reaches `markTorn`. -/
theorem onlyABrokenRuleSetsTorn : Obligations.OnlyABrokenRuleSetsTorn :=
  ⟨fun _ _ => rfl, fun _ _ => step_torn_iff⟩

end Sys2Proof.Machine
end

section
/-! SUPPORT. The fields of a command word and the decoder's two commands (30_encoding.md R45 to R49): the value of each
field, a word as its opcode byte and the rest, and the words of each row. -/

namespace Sys2Proof

/-! The fields as numbers -/

theorem opField_toNat (w : CommandWord) : (opField w).toNat = w.toNat / 2 ^ 40 := by
  have hw : w.toNat < 2 ^ 48 := w.isLt
  rw [opField, BitVec.extractLsb'_toNat, Nat.shiftRight_eq_div_pow]
  omega

theorem idxField_toNat (w : CommandWord) : (idxField w).toNat = w.toNat / 2 ^ 24 % 2 ^ 16 := by
  rw [idxField, BitVec.extractLsb'_toNat, Nat.shiftRight_eq_div_pow]

theorem redField_toNat (w : CommandWord) : (redField w).toNat = w.toNat / 2 ^ 16 % 2 ^ 8 := by
  rw [redField, BitVec.extractLsb'_toNat, Nat.shiftRight_eq_div_pow]

theorem greenField_toNat (w : CommandWord) : (greenField w).toNat = w.toNat / 2 ^ 8 % 2 ^ 8 := by
  rw [greenField, BitVec.extractLsb'_toNat, Nat.shiftRight_eq_div_pow]

theorem blueField_toNat (w : CommandWord) : (blueField w).toNat = w.toNat % 2 ^ 8 := by
  rw [blueField, BitVec.extractLsb'_toNat, Nat.shiftRight_zero]

theorem zeroField_toNat (w : CommandWord) : (zeroField w).toNat = w.toNat % 2 ^ 40 := by
  rw [zeroField, BitVec.extractLsb'_toNat, Nat.shiftRight_zero]

/-- Bit 39 of the word is the sign of the index (30_encoding.md R46). -/
theorem idxField_msb (w : CommandWord) : (idxField w).msb = w.getLsbD 39 := by
  simp [idxField, BitVec.msb_eq_getLsbD_last]

theorem idxField_toInt (w : CommandWord) :
    (idxField w).toInt = ((w.toNat / 2 ^ 24 % 2 ^ 16 : Nat) : Int) - (if w.getLsbD 39 then 2 ^ 16 else 0) := by
  rw [BitVec.toInt_eq_msb_cond, idxField_msb, idxField_toNat]
  split <;> simp

/-! A word as its opcode byte and the rest -/

theorem word_eq_iff_fields {w v : CommandWord} : w = v ↔ opField w = opField v ∧ zeroField w = zeroField v := by
  constructor
  · rintro rfl
    exact ⟨rfl, rfl⟩
  · rintro ⟨hop, hrest⟩
    have hop' := congrArg BitVec.toNat hop
    have hrest' := congrArg BitVec.toNat hrest
    simp only [opField_toNat, zeroField_toNat] at hop' hrest'
    apply BitVec.eq_of_toNat_eq
    omega

theorem opField_and (w m : CommandWord) : opField (w &&& m) = opField w &&& opField m :=
  BitVec.extractLsb'_and

theorem zeroField_and (w m : CommandWord) : zeroField (w &&& m) = zeroField w &&& zeroField m :=
  BitVec.extractLsb'_and

/-! The rows of the opcode map -/

/-- The mask of the SETCOLOR row keeps the opcode byte and clears the rest (30_encoding.md R49). -/
theorem and_rowMask_setcolor_iff (w : CommandWord) (idx : BitVec 16) (red green blue : Byte) :
    w &&& rowMask (.setcolor idx red green blue) = rowMatch (.setcolor idx red green blue) ↔ opField w = 0x01#8 := by
  have hmaskOp : opField 0xFF0000000000#48 = BitVec.allOnes 8 := by decide
  have hmaskRest : zeroField 0xFF0000000000#48 = 0#40 := by decide
  have hmatchOp : opField 0x010000000000#48 = 0x01#8 := by decide
  have hmatchRest : zeroField 0x010000000000#48 = 0#40 := by decide
  rw [rowMask, rowMatch, word_eq_iff_fields, opField_and, zeroField_and, hmaskOp, hmaskRest, hmatchOp, hmatchRest,
    BitVec.and_allOnes, BitVec.and_zero, eq_self, and_true]

theorem word_eq_rowMatch_refresh_iff (w : CommandWord) :
    w = rowMatch .refresh ↔ opField w = 0x02#8 ∧ zeroField w = 0#40 :=
  word_eq_iff_fields

/-- The mask of the REFRESH row keeps every bit (30_encoding.md R49). -/
theorem and_rowMask_refresh (w : CommandWord) : w &&& rowMask .refresh = w :=
  BitVec.and_allOnes

/-! The commands the decoder answers -/

theorem decode_eq_setcolor_iff (w : CommandWord) (idx : BitVec 16) (red green blue : Byte) :
    decode w = .command (.setcolor idx red green blue) ↔
      opField w = 0x01#8 ∧ idxField w = idx ∧ redField w = red ∧ greenField w = green ∧ blueField w = blue := by
  unfold decode
  split
  · simp [*]
  · split
    · split <;> simp [*]
    · simp [*]

theorem decode_eq_refresh_iff (w : CommandWord) : decode w = .command .refresh ↔ w = rowMatch .refresh := by
  rw [word_eq_rowMatch_refresh_iff]
  unfold decode
  split
  · simp [*]
  · split
    · split <;> simp [*]
    · simp [*]

theorem exists_decode_setcolor_iff (w : CommandWord) :
    (∃ idx red green blue, decode w = .command (.setcolor idx red green blue)) ↔ opField w = 0x01#8 := by
  simp [decode_eq_setcolor_iff]

/-- Settles O2: the masked word keeps the opcode byte (SETCOLOR) or the whole word (REFRESH), which is what the decoder
tests; the rows differ in the opcode byte. -/
theorem decodeFollowsMatchAndMask : Obligations.DecodeFollowsMatchAndMask := by
  intro w
  have hset := and_rowMask_setcolor_iff w 0#16 0#8 0#8 0#8
  have href : w &&& rowMask .refresh = rowMatch .refresh ↔ w = rowMatch .refresh := by
    rw [and_rowMask_refresh]
  refine ⟨hset.trans (exists_decode_setcolor_iff w).symm, href.trans (decode_eq_refresh_iff w).symm, ?_⟩
  rintro ⟨h1, h2⟩
  have hop1 : opField w = 0x01#8 := hset.1 h1
  have hop2 : opField w = 0x02#8 := ((word_eq_rowMatch_refresh_iff w).1 (href.1 h2)).1
  exact absurd (hop1.symm.trans hop2) (by decide)

/-- Settles O3: equality of a field with an operand is equality of their values, the index compared as signed. -/
theorem decodedFieldsAreTheFormatsBits : Obligations.DecodedFieldsAreTheFormatsBits := by
  intro w
  constructor
  · intro idx red green blue
    have hop : opField w = 0x01#8 ↔ w.toNat / 2 ^ 40 = 1 := by rw [← BitVec.toNat_inj, opField_toNat]; rfl
    rw [decode_eq_setcolor_iff, hop, ← BitVec.toInt_inj, idxField_toInt, ← BitVec.toNat_inj, redField_toNat,
      ← BitVec.toNat_inj, greenField_toNat, ← BitVec.toNat_inj, blueField_toNat]
    simp only [eq_comm]
  · rw [decode_eq_refresh_iff, ← BitVec.toNat_inj]
    rfl

end Sys2Proof
end

section
/-! SUPPORT. Where a bit stands in a frame, and what a frame holds there (30_encoding.md R52, R54). -/

namespace Sys2Proof.Machine

/-! The numbering of the slots -/

/-- A slot lies in the eight slots of the byte at address `3*i + c`. -/
theorem slot_div_eight (i c b : Nat) : slot i c b / 8 = 3 * i + c := by
  unfold slot
  omega

/-- Within its byte a slot counts the bits from bit 7 down. -/
theorem slot_mod_eight (i c b : Nat) : slot i c b % 8 = 7 - b := by
  unfold slot
  omega

/-- The inverse that 30_encoding.md R52 gives. -/
theorem slot_inverse (k : Nat) : slot (k / 24) (k % 24 / 8) (7 - k % 8) = k := by
  unfold slot
  omega

/-- Settles O12: range and inverse follow from quotient and remainder by 8, and the inverse reaches every slot. -/
theorem slotsNumberTheDataRegion : Obligations.SlotsNumberTheDataRegion := by
  intro n
  constructor
  · intro i c b hi hc hb
    have hdiv := slot_div_eight i c b
    have hmod := slot_mod_eight i c b
    refine ⟨?_, ?_, ?_, ?_, hdiv⟩ <;> omega
  · intro k hk
    exact ⟨k / 24, k % 24 / 8, 7 - k % 8, by omega, by omega, by omega, slot_inverse k⟩

/-! The entries of a frame -/

/-- The entry at slot `k` of the data region, by the byte and the bit it carries. -/
theorem frame_getElem?_data (c : Config) (bytes : List Byte) {k a b : Nat} (ha : k / 8 = a) (hb : 7 - k % 8 = b)
    (h : a < bytes.length) : (frame c bytes)[k]? = some (pulse c (bytes[a].getLsbD b)) := by
  subst ha hb
  have hk : k < (frame c bytes).length := by rw [frame_length]; omega
  rw [List.getElem?_eq_getElem hk, frame_getElem_data c bytes k hk h]

theorem frame_getElem?_gap (c : Config) (bytes : List Byte) {k : Nat} (hlo : 8 * bytes.length ≤ k)
    (hhi : k < (frame c bytes).length) : (frame c bytes)[k]? = some 0 := by
  rw [List.getElem?_eq_getElem hhi, frame_getElem_gap c bytes k hhi (by omega)]

/-- Settles O13: the length, then the entry of a data slot and of a gap slot. -/
theorem frameHoldsBitsThenGap : Obligations.FrameHoldsBitsThenGap := by
  intro c bytes hbytes
  have hlen := frame_length_eq c bytes hbytes
  refine ⟨hlen, ?_, ?_⟩
  · intro a b ha hb
    exact frame_getElem?_data c bytes (by omega) (by omega) ha
  · intro k hlo hhi
    exact frame_getElem?_gap c bytes (by omega) (hhi.trans_eq hlen.symm)

end Sys2Proof.Machine
end

section
/-! SUPPORT. The gamma table against the curve of 40_gamma.md R60. The exponent 2.2 is 11/5, so the fifth power of the
curve is rational and each rounding bound is an inequality between integers. -/

namespace Sys2Proof.Machine

/-- The unrounded value of the curve at `n` (40_gamma.md R60). -/
noncomputable def gammaCurve (n : ℕ) : ℝ := 255 * ((n : ℝ) / 255) ^ (2.2 : ℝ)

theorem gammaCurve_pow_five (n : ℕ) : gammaCurve n ^ 5 * 255 ^ 6 = (n : ℝ) ^ 11 := by
  have hpow : (((n : ℝ) / 255) ^ (2.2 : ℝ)) ^ 5 = ((n : ℝ) / 255) ^ 11 := by
    rw [← Real.rpow_mul_natCast (by positivity), ← Real.rpow_natCast]
    norm_num
  rw [gammaCurve, mul_pow, hpow]
  ring

/-- A half-integer bound below the curve. The fifth power is increasing on all reals, so a negative bound is no case of
its own. -/
theorem half_le_gammaCurve_iff (m : ℤ) (n : ℕ) :
    (m : ℝ) / 2 ≤ gammaCurve n ↔ m ^ 5 * 255 ^ 6 ≤ 32 * (n : ℤ) ^ 11 := by
  have hodd : Odd 5 := by decide
  rw [← hodd.pow_le_pow, ← @Int.cast_le ℝ]
  push_cast
  rw [← gammaCurve_pow_five]
  constructor <;> intro h <;> linarith

theorem gammaCurve_lt_half_iff (m : ℤ) (n : ℕ) :
    gammaCurve n < (m : ℝ) / 2 ↔ 32 * (n : ℤ) ^ 11 < m ^ 5 * 255 ^ 6 :=
  lt_iff_lt_of_le_iff_le (half_le_gammaCurve_iff m n)

/-- Rounding to `g`, as a test on integers. -/
theorem round_gammaCurve_eq_iff (n : ℕ) (g : ℤ) :
    round (gammaCurve n) = g ↔
      (2 * g - 1) ^ 5 * 255 ^ 6 ≤ 32 * (n : ℤ) ^ 11 ∧ 32 * (n : ℤ) ^ 11 < (2 * g + 1) ^ 5 * 255 ^ 6 := by
  have hlo : (g - 1 / 2 : ℝ) = ((2 * g - 1 : ℤ) : ℝ) / 2 := by push_cast; ring
  have hhi : (g + 1 / 2 : ℝ) = ((2 * g + 1 : ℤ) : ℝ) / 2 := by push_cast; ring
  rw [round_eq_iff, Set.mem_Ico, hlo, hhi, half_le_gammaCurve_iff, gammaCurve_lt_half_iff]

/-- Every entry of the table passes the integer test. -/
theorem gamma_within_half : ∀ v : Byte,
    (2 * ((gamma v).toNat : ℤ) - 1) ^ 5 * 255 ^ 6 ≤ 32 * (v.toNat : ℤ) ^ 11 ∧
      32 * (v.toNat : ℤ) ^ 11 < (2 * ((gamma v).toNat : ℤ) + 1) ^ 5 * 255 ^ 6 := by
  decide +kernel

theorem round_gammaCurve (v : Byte) : round (gammaCurve v.toNat) = (gamma v).toNat :=
  (round_gammaCurve_eq_iff _ _).2 (gamma_within_half v)

/-- Settles O9: the rounded curve is the table's entry, which is a byte, so the clamp does not act (40_gamma.md R63). -/
theorem gammaIsTheRoundedPower : Obligations.GammaIsTheRoundedPower := by
  intro v
  have hround := round_gammaCurve v
  rw [gammaCurve] at hround
  have hbyte := (gamma v).isLt
  omega

end Sys2Proof.Machine
end

section
/-! SUPPORT. SETCOLOR by its index operand (41_setcolor.md R68, R69): valid, any other, and not executed while halted. -/

namespace Sys2Proof.Machine

theorem validIndex_of_toInt {c : Config} {idx : BitVec 16} {i : Nat} (hi : i < c.n) (h : idx.toInt = (i : Int)) :
    validIndex c idx = true := by
  simp [validIndex, ledIndex, h, hi]

theorem ledBase_of_toInt {idx : BitVec 16} {i : Nat} (h : idx.toInt = (i : Int)) : ledBase idx = 3 * i := by
  simp [ledBase, ledIndex, h]

theorem validIndex_eq_false_iff {c : Config} {idx : BitVec 16} :
    validIndex c idx = false ↔ ¬ (0 ≤ idx.toInt ∧ idx.toInt < (c.n : Int)) := by
  rw [← Bool.not_eq_true, validIndex, Bool.and_eq_true, decide_eq_true_eq, decide_eq_true_eq, ledIndex]

theorem exec_setcolor_valid {s : State} {idx : BitVec 16} (hs : s.halted = false) (hv : validIndex s.cfg idx = true)
    (red green blue : Byte) :
    exec (.setcolor idx red green blue) s = .next (storeLed s (ledBase idx) red green blue) :=
  (execSetcolor_eq hs ..).trans (by rw [if_pos hv])

theorem exec_setcolor_invalid {s : State} {idx : BitVec 16} (hs : s.halted = false) (hv : validIndex s.cfg idx = false)
    (red green blue : Byte) : exec (.setcolor idx red green blue) s = .next s :=
  (execSetcolor_eq hs ..).trans (by simp [hv])

theorem exec_setcolor_ne_next_of_halted {s : State} (hs : s.halted = true) (idx : BitVec 16) (red green blue : Byte)
    (t : State) : exec (.setcolor idx red green blue) s ≠ .next t := by
  intro h
  obtain ⟨hrun, -⟩ := execSetcolor_next h
  simp [hs] at hrun

/-- Settles O15: a valid index stores at `3*i`, so the reads are those after `storeLed`; any other answers the state
itself, and a halted block answers no next state. -/
theorem setcolorStoresCorrectedBytes : Obligations.SetcolorStoresCorrectedBytes := by
  intro s idx red green blue
  refine ⟨?_, ?_, ?_⟩
  · intro i hs hi hidx
    have hexec := exec_setcolor_valid hs (validIndex_of_toInt hi hidx) red green blue
    rw [ledBase_of_toInt hidx] at hexec
    refine ⟨_, hexec, storeLed_eq .., ?_, ?_, ?_, ?_⟩
    · simp [cbRead_storeLed]
    · simp [cbRead_storeLed]
    · simp [cbRead_storeLed]
    · intro a hgreen hred hblue
      simp [cbRead_storeLed, hgreen, hred, hblue]
  · intro hs hidx
    exact exec_setcolor_invalid hs (validIndex_eq_false_iff.2 hidx) red green blue
  · intro hs
    exact exec_setcolor_ne_next_of_halted hs idx red green blue

end Sys2Proof.Machine
end

section
/-! SUPPORT. The buffer REFRESH leaves, busy or not, and what it depends on (42_refresh.md R75 to R79, R82). -/

namespace Sys2Proof.Machine

/-! The Pulse Buffer after REFRESH -/

@[simp] theorem startPhase_cfg (s : State) : (startPhase s).cfg = s.cfg := by
  cases hb : s.busy
  · simp [startPhase_idle hb]
  · simp [startPhase_busy hb]

@[simp] theorem startPhase_pb (s : State) : (startPhase s).pb = s.pb := by
  cases hb : s.busy
  · simp [startPhase_idle hb]
  · simp [startPhase_busy hb]

@[simp] theorem buildPhase_cfg (s : State) : (buildPhase s).cfg = s.cfg := by
  cases hb : s.busy
  · simp [buildPhase_idle hb]
  · simp [buildPhase_busy hb]

theorem execRefresh_cfg {s t : State} (h : execRefresh s = .next t) : t.cfg = s.cfg := by
  obtain ⟨-, rfl⟩ := execRefresh_next h
  split <;> simp

/-- Neither branch of REFRESH touches the Pulse Buffer after the build phase. -/
theorem execRefresh_pb {s t : State} (h : execRefresh s = .next t) : t.pb = (buildPhase s).pb := by
  obtain ⟨-, rfl⟩ := execRefresh_next h
  split <;> simp

theorem execRefresh_pbEntries {s t : State} (h : execRefresh s = .next t) :
    pbEntries t = frame s.cfg (cbBytes s) := by
  have hcfg : t.cfg = (buildPhase s).cfg := (execRefresh_cfg h).trans (buildPhase_cfg s).symm
  rw [pbEntries_congr hcfg (execRefresh_pb h), pbEntries_buildPhase]

/-- An entry read after REFRESH is the frame's entry at that slot. -/
theorem frame_getElem?_of_execRefresh {s t : State} (h : execRefresh s = .next t) {k : Nat} (hk : k < s.cfg.len) :
    (frame s.cfg (cbBytes s))[k]? = some (pbRead t k) := by
  have hlt : k < (pbEntries t).length := by rwa [pbEntries_length, execRefresh_cfg h]
  rw [← execRefresh_pbEntries h, List.getElem?_eq_getElem hlt, pbEntries_getElem]

/-- A data slot holds the pulse of its bit (42_refresh.md R76). -/
theorem execRefresh_pbRead_slot {s t : State} (h : execRefresh s = .next t) {i c b : Nat}
    (hi : i < s.cfg.n) (hc : c < 3) (hb : b < 8) :
    pbRead t (slot i c b) = pulse s.cfg ((cbRead s (3 * i + c)).getLsbD b) := by
  have hslot : slot i c b < s.cfg.len := by unfold slot Params.len; omega
  have hbyte : 3 * i + c < (cbBytes s).length := by rw [cbBytes_length]; omega
  have hbit : 7 - slot i c b % 8 = b := by rw [slot_mod_eight]; omega
  have hframe := frame_getElem?_data s.cfg (cbBytes s) (slot_div_eight i c b) hbit hbyte
  rw [frame_getElem?_of_execRefresh h hslot, cbBytes_getElem] at hframe
  exact Option.some.inj hframe

/-- A gap slot holds 0 (42_refresh.md R77). -/
theorem execRefresh_pbRead_gap {s t : State} (h : execRefresh s = .next t) {k : Nat}
    (hlo : 24 * s.cfg.n ≤ k) (hhi : k < s.cfg.len) : pbRead t k = 0 := by
  have hdata : 8 * (cbBytes s).length ≤ k := by rw [cbBytes_length]; omega
  have hlen : k < (frame s.cfg (cbBytes s)).length := by rwa [frame_length_eq _ _ (cbBytes_length s)]
  have hframe := frame_getElem?_gap s.cfg (cbBytes s) hdata hlen
  rw [frame_getElem?_of_execRefresh h hhi] at hframe
  exact Option.some.inj hframe

/-- Settles O21: REFRESH answers a state whose entries are the frame, read at a data slot, at a gap slot and as a whole. -/
theorem refreshBuildsTheFrame : Obligations.RefreshBuildsTheFrame := by
  intro s hs
  have hrun := execRefresh_eq hs
  refine ⟨_, hrun, ?_, ?_, execRefresh_pbEntries hrun⟩
  · intro i c b hi hc hb
    exact execRefresh_pbRead_slot hrun hi hc hb
  · intro k hlo hhi
    exact execRefresh_pbRead_gap hrun hlo hhi

/-! What the buffer depends on -/

/-- A frame is a function of its bytes, `GAP` and the two pulse widths. -/
theorem frame_congr {c c' : Config} (hgap : c.gap = c'.gap) (ht0h : c.t0h = c'.t0h) (ht1h : c.t1h = c'.t1h)
    (bytes : List Byte) : frame c bytes = frame c' bytes := by
  have hpulse : pulse c = pulse c' := by
    funext bit
    rw [pulse, pulse, ht0h, ht1h]
  rw [frame, frame, dataSlots, dataSlots, hpulse, hgap]

theorem cbBytes_eq_of_cbRead {s s' : State} (hn : s.cfg.n = s'.cfg.n)
    (hread : ∀ a, a < 3 * s.cfg.n → cbRead s a = cbRead s' a) : cbBytes s = cbBytes s' := by
  rw [cbBytes, cbBytes, ← hn]
  exact List.map_congr_left fun a ha => hread a (List.mem_range.1 ha)

/-- Where old and new entry are equal the free choice of a torn read does not matter (42_refresh.md R82). -/
theorem tickValue_of_pboldRead_eq {s : State} (h : pboldRead s s.pos = pbRead s s.pos) :
    tickValue s = pbRead s s.pos := by
  rcases tickValue_cases s with hnew | ⟨-, hold⟩
  · exact hnew
  · exact hold.trans h

/-- Settles O25: both buffers are frames of equal bytes under equal parameters; a torn read draws from two equal entries. -/
theorem refreshDependsOnColorsAlone : Obligations.RefreshDependsOnColorsAlone := by
  constructor
  · intro s s' t t' hn hgap ht0h ht1h hread h h'
    calc pbEntries t
      _ = frame s.cfg (cbBytes s) := execRefresh_pbEntries h
      _ = frame s'.cfg (cbBytes s) := frame_congr hgap ht0h ht1h _
      _ = frame s'.cfg (cbBytes s') := by rw [cbBytes_eq_of_cbRead hn hread]
      _ = pbEntries t' := (execRefresh_pbEntries h').symm
  · intro s hs hbusy _ hpos hequal
    refine ⟨activeTick s, tick_active hs hbusy hpos, ?_⟩
    rw [activeTick_eq, tickValue_of_pboldRead_eq hequal]
    exact ⟨rfl, rfl⟩

end Sys2Proof.Machine
end

section
/-! SUPPORT. Ticks one at a time and in a row: what a tick leaves in each field, the zero of a gap slot, and the length of
a transfer (43_sequencer.md R88 to R92). -/

namespace Sys2Proof.Machine

/-! One active tick -/

@[simp] theorem activeTick_cfg (s : State) : (activeTick s).cfg = s.cfg := by rw [activeTick_eq]
@[simp] theorem activeTick_pb (s : State) : (activeTick s).pb = s.pb := by rw [activeTick_eq]
@[simp] theorem activeTick_pos (s : State) : (activeTick s).pos = s.pos + 1 := by rw [activeTick_eq]
@[simp] theorem activeTick_ccr (s : State) : (activeTick s).ccr = tickValue s := by rw [activeTick_eq]
@[simp] theorem activeTick_halted (s : State) : (activeTick s).halted = s.halted := by rw [activeTick_eq]
@[simp] theorem activeTick_busy (s : State) :
    (activeTick s).busy = (s.busy && decide (s.pos + 1 ≠ s.cfg.len)) := by rw [activeTick_eq]
@[simp] theorem activeTick_tear (s : State) :
    (activeTick s).tear = (s.tear && decide (s.pos + 1 ≠ s.cfg.len)) := by rw [activeTick_eq]

theorem tickValue_of_not_tear {s : State} (h : s.tear = false) : tickValue s = pbRead s s.pos := by
  simp [tickValue, h]

/-! The gap slots of a good state -/

/-- A buffer in canonical form reads as unlisted from its bound on. -/
theorem readCell_of_bound_le {α : Type} [DecidableEq α] {z : α} {m : List (Nat × α)} {bound a : Nat}
    (hwf : cellsWf z m = true) (hbelow : cellsBelow bound m = true) (ha : bound ≤ a) : readCell z m a = z := by
  by_contra hne
  have hmem : (a, readCell z m a) ∈ m := (mem_iff_readCell hwf a _).2 ⟨hne, rfl⟩
  exact absurd (cellsBelow_iff.1 hbelow _ hmem) (Nat.not_lt.2 ha)

/-- A gap slot of a legal Pulse Buffer holds 0 (10_state.md R13). -/
theorem readCell_of_pulsesOk_gap {c : Config} {m : List (Nat × Nat)} {k : Nat} (h : pulsesOk c m = true)
    (hk : c.dataLen ≤ k) : readCell 0 m k = 0 := by
  simp only [pulsesOk, Bool.and_eq_true] at h
  obtain ⟨⟨hwf, hbelow⟩, -⟩ := h
  exact readCell_of_bound_le hwf hbelow hk

theorem State.Inv.pbRead_gap {s : State} (h : s.Inv) {k : Nat} (hk : s.cfg.dataLen ≤ k) : pbRead s k = 0 :=
  readCell_of_pulsesOk_gap h.pb_ok hk

theorem State.Inv.pboldRead_gap {s : State} (h : s.Inv) {k : Nat} (hk : s.cfg.dataLen ≤ k) : pboldRead s k = 0 :=
  readCell_of_pulsesOk_gap h.pbold_ok hk

/-- Old and new buffer agree on the gap, so a tick there delivers 0, torn or not (43_sequencer.md R90). -/
theorem State.Inv.tickValue_gap {s : State} (h : s.Inv) (hpos : s.cfg.dataLen ≤ s.pos) : tickValue s = 0 := by
  have hequal : pboldRead s s.pos = pbRead s s.pos := (h.pboldRead_gap hpos).trans (h.pbRead_gap hpos).symm
  rw [tickValue_of_pboldRead_eq hequal, h.pbRead_gap hpos]

/-- `GAP` is at least 1 (00_scope.md R8), so the last slot of the buffer is one of the gap. -/
theorem dataLen_lt_len (c : Config) : c.dataLen < c.len := by
  obtain ⟨-, -, hgap, -⟩ := config_valid c
  unfold Params.dataLen Params.len
  omega

theorem State.Inv.running_of_busy {s : State} (h : s.Inv) (hbusy : s.busy = true) : s.halted = false := by
  by_contra hhalted
  obtain ⟨hidle, -⟩ := h.halted_ok (by simpa using hhalted)
  simp [hbusy] at hidle

/-! Ticks in a row -/

/-- `BUSY = 1` exactly below `L` is what an active tick keeps; so `POS` counts the ticks and `BUSY` falls with the one
that reaches `L` (43_sequencer.md R89). -/
theorem tickN_of_busy_iff {s : State} (k : Nat) (hs : s.halted = false)
    (hbusy : s.busy = decide (s.pos < s.cfg.len)) (hk : s.pos + k ≤ s.cfg.len) :
    ∃ u, tickN k s = .next u ∧ u.pos = s.pos + k ∧ u.busy = decide (s.pos + k < s.cfg.len) := by
  induction k generalizing s with
  | zero => exact ⟨s, rfl, rfl, hbusy⟩
  | succ k ih =>
    have hpos : s.pos < s.cfg.len := by omega
    have hactive : s.busy = true := by simpa [hpos] using hbusy
    have hbusy' : (activeTick s).busy = decide ((activeTick s).pos < (activeTick s).cfg.len) := by
      have hiff : s.pos + 1 ≠ s.cfg.len ↔ s.pos + 1 < s.cfg.len := by omega
      simp [hactive, hiff]
    have hk' : (activeTick s).pos + k ≤ (activeTick s).cfg.len := by
      rw [activeTick_pos, activeTick_cfg]
      omega
    obtain ⟨u, hrun, hupos, hubusy⟩ := ih ((activeTick_halted s).trans hs) hbusy' hk'
    have hcount : s.pos + 1 + k = s.pos + (k + 1) := by omega
    rw [activeTick_pos, hcount] at hupos hubusy
    rw [activeTick_cfg] at hubusy
    exact ⟨u, by rw [tickN, tick_active hs hactive hpos]; exact hrun, hupos, hubusy⟩

/-! The statements -/

/-- Settles O29: the tick that reaches `L` reads the last gap slot, and the ticks are counted by `tickN_of_busy_iff`. -/
theorem lastTickEndsTheTransfer : Obligations.LastTickEndsTheTransfer := by
  intro s hinv hbusy
  have hs : s.halted = false := hinv.running_of_busy hbusy
  obtain ⟨-, hbelow⟩ := hinv.pos_ok
  have hpos : s.pos < s.cfg.len := hbelow hbusy
  constructor
  · refine ⟨activeTick s, tick_active hs hbusy hpos, activeTick_pos s, activeTick_pb s, ?_, ?_⟩
    · intro hend
      rw [activeTick_pos] at hend
      have hlast : s.cfg.len - 1 = s.pos := by omega
      have hgap : s.cfg.dataLen ≤ s.pos := by have := dataLen_lt_len s.cfg; omega
      simp [hend, hlast, hinv.tickValue_gap hgap, hinv.pbRead_gap hgap]
    · intro hmore
      rw [activeTick_pos] at hmore
      simp [hmore, hbusy]
  · intro hstart k hk
    simpa [hstart] using tickN_of_busy_iff k hs (by simp [hbusy, hpos]) (by omega)

/-- Settles O28: an untorn tick reads `PB[POS]` and takes no free choice. -/
theorem tickDeliversTheEntryAtPos : Obligations.TickDeliversTheEntryAtPos := by
  intro s hs hbusy htear hpos
  rw [tick_active hs hbusy hpos, activeTick_eq, tickValue_of_not_tear htear]
  simp [hbusy, htear]

/-- Settles O31: the idle branch of a tick, and the idle clause of the invariant for the line. -/
theorem idleTickChangesNothing : Obligations.IdleTickChangesNothing := by
  intro s hs hidle
  refine ⟨tick_idle hs hidle, fun hinv => ?_⟩
  obtain ⟨-, hlow⟩ := hinv.idle_ok hidle
  exact hlow

end Sys2Proof.Machine
end

section
/-! SUPPORT. The reset state (70_reset_and_hazards.md R116): the three buffers list no cell, so every entry reads 0. -/

namespace Sys2Proof.Machine

@[simp] theorem cbRead_resetWith (c : Config) (initOk : Bool) (a : Nat) : cbRead (State.resetWith c initOk) a = 0#8 :=
  readCell_nil 0#8 a

@[simp] theorem pbRead_resetWith (c : Config) (initOk : Bool) (k : Nat) : pbRead (State.resetWith c initOk) k = 0 :=
  readCell_nil 0 k

@[simp] theorem pboldRead_resetWith (c : Config) (initOk : Bool) (k : Nat) :
    pboldRead (State.resetWith c initOk) k = 0 :=
  readCell_nil 0 k

/-! The statement -/

/-- Settles O45: the buffers by their reads at reset, and every other row is a field that reset sets. -/
theorem resetGivesTheStatedValues : Obligations.ResetGivesTheStatedValues := by
  intro c initOk
  exact ⟨cbRead_resetWith c initOk, pbRead_resetWith c initOk, rfl, rfl, rfl, rfl, rfl, rfl,
    pboldRead_resetWith c initOk, rfl, rfl⟩

end Sys2Proof.Machine
end

section
/-! SUPPORT. Both round trips of the decoder and the encoder, the reserved words, and the words that assembler text gives
(30_encoding.md R46 to R51, R55). -/

namespace Sys2Proof

/-! The encoder -/

theorem toNat_append_eq_add {m n : Nat} (x : BitVec m) (y : BitVec n) :
    (x ++ y).toNat = x.toNat * 2 ^ n + y.toNat := by
  rw [BitVec.toNat_append, ← Nat.shiftLeft_add_eq_or_of_lt y.isLt, Nat.shiftLeft_eq]

/-- The fields of format S by their weights in the word (30_encoding.md R46). -/
theorem encode_setcolor_toNat (idx : BitVec 16) (red green blue : Byte) :
    (encode (.setcolor idx red green blue)).toNat =
      2 ^ 40 + idx.toNat * 2 ^ 24 + red.toNat * 2 ^ 16 + green.toNat * 2 ^ 8 + blue.toNat := by
  rw [encode, toNat_append_eq_add, toNat_append_eq_add, toNat_append_eq_add, toNat_append_eq_add]
  simp only [BitVec.toNat_ofNat]
  omega

theorem encode_refresh : encode .refresh = rowMatch .refresh := by decide

theorem decode_encode (i : Instr) : decode (encode i) = .command i := by
  cases i with
  | refresh => exact (decode_eq_refresh_iff _).2 encode_refresh
  | setcolor idx red green blue =>
    have hidx := idx.isLt
    have hred := red.isLt
    have hgreen := green.isLt
    have hblue := blue.isLt
    rw [decode_eq_setcolor_iff]
    refine ⟨?_, ?_, ?_, ?_, ?_⟩ <;> apply BitVec.eq_of_toNat_eq
    · rw [opField_toNat, encode_setcolor_toNat, BitVec.toNat_ofNat]
      omega
    · rw [idxField_toNat, encode_setcolor_toNat]
      omega
    · rw [redField_toNat, encode_setcolor_toNat]
      omega
    · rw [greenField_toNat, encode_setcolor_toNat]
      omega
    · rw [blueField_toNat, encode_setcolor_toNat]
      omega

/-- The opcode byte 1 as a number. -/
theorem opField_eq_one_iff (w : CommandWord) : opField w = 0x01#8 ↔ w.toNat / 2 ^ 40 = 1 := by
  rw [← BitVec.toNat_inj, opField_toNat, BitVec.toNat_ofNat]

theorem opField_eq_two_iff (w : CommandWord) : opField w = 0x02#8 ↔ w.toNat / 2 ^ 40 = 2 := by
  rw [← BitVec.toNat_inj, opField_toNat, BitVec.toNat_ofNat]

theorem zeroField_eq_zero_iff (w : CommandWord) : zeroField w = 0#40 ↔ w.toNat % 2 ^ 40 = 0 := by
  rw [← BitVec.toNat_inj, zeroField_toNat, BitVec.toNat_ofNat]

/-- A word is the encoding of the command it decodes to: the fields fill it (30_encoding.md R46, R47). -/
theorem encode_of_decode {w : CommandWord} {i : Instr} (h : decode w = .command i) : encode i = w := by
  cases i with
  | refresh => rw [encode_refresh, (decode_eq_refresh_iff w).1 h]
  | setcolor idx red green blue =>
    obtain ⟨hop, rfl, rfl, rfl, rfl⟩ := (decode_eq_setcolor_iff ..).1 h
    rw [opField_eq_one_iff] at hop
    apply BitVec.eq_of_toNat_eq
    rw [encode_setcolor_toNat, idxField_toNat, redField_toNat, greenField_toNat, blueField_toNat]
    omega

/-- Settles O1: the fields of an encoded word are its operands, and a decoded word is the sum of its weighted fields. -/
theorem decodeAndEncodeAreInverse : Obligations.DecodeAndEncodeAreInverse :=
  ⟨decode_encode, fun _ _ => encode_of_decode⟩

/-! The reserved words -/

theorem exists_decode_reserved_iff (w : CommandWord) :
    (∃ why, decode w = .reserved why) ↔
      (opField w ≠ 0x01#8 ∧ opField w ≠ 0x02#8) ∨ (opField w = 0x02#8 ∧ zeroField w ≠ 0#40) := by
  unfold decode
  split
  · simp [*]
  · split
    · split <;> simp [*]
    · simp [*]

/-! Assembler text -/

theorem AsmLine.indexOk_iff (i : Int) : AsmLine.indexOk i = true ↔ -32768 ≤ i ∧ i ≤ 32767 := by
  simp [AsmLine.indexOk]

theorem AsmLine.channelOk_iff (v : Int) : AsmLine.channelOk v = true ↔ 0 ≤ v ∧ v ≤ 255 := by
  simp [AsmLine.channelOk]

theorem AsmLine.wellFormed_setcolor_iff (idx red green blue : Int) :
    (AsmLine.setcolor idx red green blue).wellFormed = true ↔
      (-32768 ≤ idx ∧ idx ≤ 32767) ∧ (0 ≤ red ∧ red ≤ 255) ∧ (0 ≤ green ∧ green ≤ 255) ∧ 0 ≤ blue ∧ blue ≤ 255 := by
  simp only [AsmLine.wellFormed, Bool.and_eq_true, AsmLine.indexOk_iff, AsmLine.channelOk_iff, and_assoc]

/-- A number in the range of an index is the signed value of its sixteen bits. -/
theorem toInt_ofInt_index {i : Int} (h : -32768 ≤ i ∧ i ≤ 32767) : (BitVec.ofInt 16 i).toInt = i := by
  rw [BitVec.toInt_ofInt]
  exact Int.bmod_eq_of_le (by omega) (by omega)

theorem toNat_ofInt_channel {v : Int} (h : 0 ≤ v ∧ v ≤ 255) : ((BitVec.ofInt 8 v).toNat : Int) = v := by
  rw [BitVec.toNat_ofInt]
  omega

end Sys2Proof

namespace Sys2Proof.Machine

theorem assemble_of_wellFormed_setcolor {idx red green blue : Int}
    (h : (AsmLine.setcolor idx red green blue).wellFormed = true) :
    assemble (.setcolor idx red green blue) =
      some (.command (encode (.setcolor (BitVec.ofInt 16 idx) (BitVec.ofInt 8 red) (BitVec.ofInt 8 green)
        (BitVec.ofInt 8 blue)))) :=
  if_pos h

theorem assemble_of_not_wellFormed {l : AsmLine} (h : ¬ l.wellFormed = true) : assemble l = none :=
  if_neg h

/-- Settles O7: in range the word decodes to the operands' bits, whose values are the numbers written; out of range the
line is not well formed. -/
theorem assemblerKeepsOperandsOrRefuses : Obligations.AssemblerKeepsOperandsOrRefuses := by
  intro idx red green blue
  split
  · have hwf : (AsmLine.setcolor idx red green blue).wellFormed = true := by
      rw [AsmLine.wellFormed_setcolor_iff]
      omega
    obtain ⟨hidx, hred, hgreen, hblue⟩ := (AsmLine.wellFormed_setcolor_iff ..).1 hwf
    exact ⟨_, _, _, _, _, assemble_of_wellFormed_setcolor hwf, decode_encode _, toInt_ofInt_index hidx,
      toNat_ofInt_channel hred, toNat_ofInt_channel hgreen, toNat_ofInt_channel hblue⟩
  · apply assemble_of_not_wellFormed
    rw [AsmLine.wellFormed_setcolor_iff]
    omega

/-- Settles O5: each word of the table is closed, and the decoder computes. -/
theorem specWordsDecode : Obligations.SpecWordsDecode := by
  unfold Obligations.SpecWordsDecode
  decide

end Sys2Proof.Machine
end

section
/-! SUPPORT. A step as the update it makes: SETCOLOR, the phases of REFRESH and a tick field by field, and the six things a
step can do (10_state.md section 9). -/

namespace Sys2Proof.Machine

/-! SETCOLOR as one update -/

/-- What SETCOLOR leaves of a running block, for a valid index and for any other (41_setcolor.md R68, R69). -/
def withColor (s : State) (idx : BitVec 16) (red green blue : Byte) : State :=
  if validIndex s.cfg idx then storeLed s (ledBase idx) red green blue else s

theorem exec_setcolor_eq {s : State} (hs : s.halted = false) (idx : BitVec 16) (red green blue : Byte) :
    exec (.setcolor idx red green blue) s = .next (withColor s idx red green blue) :=
  execSetcolor_eq hs ..

theorem exec_setcolor_next {s t : State} {idx : BitVec 16} {red green blue : Byte}
    (h : exec (.setcolor idx red green blue) s = .next t) :
    s.halted = false ∧ t = withColor s idx red green blue :=
  execSetcolor_next h

theorem withColor_valid {s : State} {idx : BitVec 16} (hv : validIndex s.cfg idx = true) (red green blue : Byte) :
    withColor s idx red green blue = storeLed s (ledBase idx) red green blue :=
  if_pos hv

theorem withColor_invalid {s : State} {idx : BitVec 16} (hv : validIndex s.cfg idx = false) (red green blue : Byte) :
    withColor s idx red green blue = s := by
  simp [withColor, hv]

theorem withColor_eq (s : State) (idx : BitVec 16) (red green blue : Byte) :
    withColor s idx red green blue = { s with cb := (withColor s idx red green blue).cb } := by
  cases hv : validIndex s.cfg idx
  · rw [withColor_invalid hv]
  · rw [withColor_valid hv, ← storeLed_eq]

/-- The stored bytes depend on the Color Buffer and on `N` alone. -/
theorem withColor_cb_congr {s t : State} (hcfg : s.cfg = t.cfg) (hcb : s.cb = t.cb) (idx : BitVec 16)
    (red green blue : Byte) : (withColor s idx red green blue).cb = (withColor t idx red green blue).cb := by
  cases hv : validIndex s.cfg idx
  · rw [withColor_invalid hv, withColor_invalid (hcfg ▸ hv), hcb]
  · rw [withColor_valid hv, withColor_valid (hcfg ▸ hv)]
    simp [storeLed, hcb]

theorem cbRead_withColor (s : State) (idx : BitVec 16) (red green blue : Byte) (a : Nat) :
    cbRead (withColor s idx red green blue) a =
      if validIndex s.cfg idx = true then
        if a = ledBase idx then gamma green else if a = ledBase idx + 1 then gamma red
        else if a = ledBase idx + 2 then gamma blue else cbRead s a
      else cbRead s a := by
  cases hv : validIndex s.cfg idx
  · rw [withColor_invalid hv, if_neg Bool.false_ne_true]
  · rw [withColor_valid hv, if_pos rfl, cbRead_storeLed]

theorem cellsWf_withColor {s : State} (h : cellsWf 0#8 s.cb = true) (idx : BitVec 16) (red green blue : Byte) :
    cellsWf 0#8 (withColor s idx red green blue).cb = true := by
  cases hv : validIndex s.cfg idx
  · rwa [withColor_invalid hv]
  · rw [withColor_valid hv]
    exact cellsWf_writeCell _ _ (cellsWf_writeCell _ _ (cellsWf_writeCell _ _ h))

/-- The three addresses of a valid index lie inside the Color Buffer (10_state.md R10). -/
theorem ledBase_add_two_lt {c : Config} {idx : BitVec 16} (hv : validIndex c idx = true) :
    ledBase idx + 2 < 3 * c.n := by
  obtain ⟨i, hi, -, hbase⟩ := validIndex_iff.1 hv
  omega

theorem cellsBelow_withColor {s : State} (h : cellsBelow (3 * s.cfg.n) s.cb = true) (idx : BitVec 16)
    (red green blue : Byte) : cellsBelow (3 * s.cfg.n) (withColor s idx red green blue).cb = true := by
  cases hv : validIndex s.cfg idx
  · rwa [withColor_invalid hv]
  · have hbase := ledBase_add_two_lt hv
    rw [withColor_valid hv]
    exact cellsBelow_writeCell _ hbase
      (cellsBelow_writeCell _ (by omega) (cellsBelow_writeCell _ (by omega) h))

/-! The phases of REFRESH as updates -/

/-- The build phase writes `PB`, and while `BUSY = 1` the snapshot and the marks (42_refresh.md R76 to R79). -/
theorem buildPhase_eq (s : State) :
    buildPhase s =
      { s with pb := (buildPhase s).pb, tear := s.tear || s.busy, torn := s.torn || s.busy,
               pbold := if s.busy then s.pb else s.pbold } := by
  cases hb : s.busy
  · simp [buildPhase_idle hb, pbFill, hb]
  · simp [buildPhase_busy hb, pbFill, markTorn, hb]

/-- After the start phase `BUSY = 1` in either case; only an honoured start sets `POS` (42_refresh.md R78). -/
theorem startPhase_eq (s : State) :
    startPhase s =
      { s with busy := true, pos := if s.busy then s.pos else 0, tear := false, starting := false } := by
  cases hb : s.busy
  · simp [startPhase_idle hb, setStarting, clearTear, raiseBusy]
  · simp [startPhase_busy hb, setStarting, clearTear, hb]

/-- What a REFRESH accepted with `BUSY = 0` leaves (42_refresh.md R75, R78). -/
def refreshedIdle (s : State) : State :=
  { s with pb := (buildPhase s).pb, busy := true, pos := 0, tear := false, starting := false }

/-- What a REFRESH accepted with `BUSY = 1` leaves before its start phase (42_refresh.md R79). -/
def refreshedBusy (s : State) : State :=
  { s with pb := (buildPhase s).pb, pbold := s.pb, tear := true, torn := true, starting := true }

theorem exec_refresh_idle {s : State} (hs : s.halted = false) (hb : s.busy = false) :
    exec .refresh s = .next (refreshedIdle s) := by
  refine (execRefresh_eq hs).trans ?_
  rw [startPhase_eq, buildPhase_eq]
  simp [hb, refreshedIdle]

theorem exec_refresh_busy {s : State} (hs : s.halted = false) (hb : s.busy = true) :
    exec .refresh s = .next (refreshedBusy s) := by
  refine (execRefresh_eq hs).trans ?_
  rw [buildPhase_eq]
  simp [hb, refreshedBusy, setStarting]

theorem exec_refresh_next {s t : State} (h : exec .refresh s = .next t) :
    s.halted = false ∧ ((s.busy = false ∧ t = refreshedIdle s) ∨ (s.busy = true ∧ t = refreshedBusy s)) := by
  obtain ⟨hs, -⟩ := execRefresh_next h
  refine ⟨hs, ?_⟩
  cases hb : s.busy
  · rw [exec_refresh_idle hs hb] at h
    cases h
    exact .inl ⟨rfl, rfl⟩
  · rw [exec_refresh_busy hs hb] at h
    cases h
    exact .inr ⟨rfl, rfl⟩

theorem pbEntries_refreshedIdle (s : State) : pbEntries (refreshedIdle s) = frame s.cfg (cbBytes s) := by
  have hsame : pbEntries (refreshedIdle s) = pbEntries (buildPhase s) := pbEntries_congr (buildPhase_cfg s).symm rfl
  rw [hsame, pbEntries_buildPhase]

theorem pbEntries_refreshedBusy (s : State) : pbEntries (refreshedBusy s) = frame s.cfg (cbBytes s) := by
  have hsame : pbEntries (refreshedBusy s) = pbEntries (buildPhase s) := pbEntries_congr (buildPhase_cfg s).symm rfl
  rw [hsame, pbEntries_buildPhase]

/-- The build phase writes the entries `0` to `L - 1` and no others. -/
theorem pbRead_buildPhase_of_len_le (s : State) {k : Nat} (hk : s.cfg.len ≤ k) :
    pbRead (buildPhase s) k = pbRead s k := by
  have hlen : ¬ k < (frame s.cfg (cbBytes s)).length := by
    rw [frame_length_eq _ _ (cbBytes_length s)]
    omega
  rw [buildPhase, pbRead_pbFill, if_neg hlen]
  split <;> rfl

/-! The fields an active tick leaves alone -/

@[simp] theorem activeTick_cb (s : State) : (activeTick s).cb = s.cb := by rw [activeTick_eq]
@[simp] theorem activeTick_out (s : State) : (activeTick s).out = s.out ++ [tickValue s] := by rw [activeTick_eq]
@[simp] theorem activeTick_torn (s : State) : (activeTick s).torn = s.torn := by rw [activeTick_eq]
@[simp] theorem activeTick_pbold (s : State) : (activeTick s).pbold = s.pbold := by rw [activeTick_eq]
@[simp] theorem activeTick_starting (s : State) : (activeTick s).starting = s.starting := by rw [activeTick_eq]
@[simp] theorem activeTick_host (s : State) : (activeTick s).host = s.host := by rw [activeTick_eq]

/-! What a step can do -/

/-- What the step of `s`, whose event takes place in `u`, can leave: the block unchanged (an idle tick or a directive), or
one of the five updates, each with its cause. -/
inductive Effect (s u : State) : State → Prop where
  | still : Effect s u u
  | tick (hbusy : u.busy = true) (hpos : u.pos < u.cfg.len) : Effect s u (activeTick u)
  | start (hstarting : u.starting = true) : Effect s u (startPhase u)
  | store {w : CommandWord} {idx : BitVec 16} {red green blue : Byte} (hw : Presents s w u)
      (hd : decode w = .command (.setcolor idx red green blue)) : Effect s u (withColor u idx red green blue)
  | refreshIdle {w : CommandWord} (hw : Presents s w u) (hd : decode w = .command .refresh)
      (hbusy : u.busy = false) : Effect s u (refreshedIdle u)
  | refreshBusy {w : CommandWord} (hw : Presents s w u) (hd : decode w = .command .refresh)
      (hbusy : u.busy = true) : Effect s u (refreshedBusy u)

/-- Every step of a running block has one of these effects, in a state that differs in the host's side alone. -/
theorem step_effect {s t : State} (h : step s = .next t) :
    s.halted = false ∧ ∃ items bits n, Effect s { s with host := items, choices := bits, drawn := n } t := by
  obtain ⟨hs, u, hu, hcase⟩ := step_next h
  have hstarting : u.starting = s.starting := by rw [hu]
  refine ⟨hs, u.host, u.choices, u.drawn, ?_⟩
  rw [← (hu : u = _)]
  rcases hcase with ⟨htick, -⟩ | ⟨rfl, hst⟩ | ⟨rfl, -⟩ | ⟨w, i, -, hw, hd, hx, -⟩
  · obtain ⟨-, ⟨-, rfl⟩ | ⟨hbusy, hpos, rfl⟩⟩ := tick_next htick
    · exact .still
    · exact .tick hbusy hpos
  · exact .start (hstarting.trans hst)
  · exact .still
  · cases i with
    | setcolor idx red green blue =>
      obtain ⟨-, rfl⟩ := exec_setcolor_next hx
      exact .store hw hd
    | refresh =>
      obtain ⟨-, ⟨hbusy, rfl⟩ | ⟨hbusy, rfl⟩⟩ := exec_refresh_next hx
      · exact .refreshIdle hw hd hbusy
      · exact .refreshBusy hw hd hbusy

end Sys2Proof.Machine
end

section
/-! SUPPORT. The legal entries of a Pulse Buffer, and the invariant of the state along a step (10_state.md R10 to R23). -/

namespace Sys2Proof.Machine

/-! Legal Pulse Buffers -/

/-- A legal buffer by what it reads: 0, or in the data region a pulse (10_state.md R13). -/
theorem pulsesOk_iff {c : Config} {m : List (Nat × Nat)} :
    pulsesOk c m = true ↔
      cellsWf 0 m = true ∧ ∀ k, readCell 0 m k = 0 ∨ (k < c.dataLen ∧ (readCell 0 m k = c.t0h ∨ readCell 0 m k = c.t1h)) := by
  simp only [pulsesOk, Bool.and_eq_true, cellsBelow_iff, List.all_eq_true, Bool.or_eq_true, decide_eq_true_eq, and_assoc]
  refine and_congr_right fun hwf => ⟨?_, ?_⟩
  · rintro ⟨hbelow, hpulse⟩ k
    by_cases hz : readCell 0 m k = 0
    · exact .inl hz
    · have hmem : (k, readCell 0 m k) ∈ m := (mem_iff_readCell hwf k _).2 ⟨hz, rfl⟩
      exact .inr ⟨hbelow _ hmem, hpulse _ hmem⟩
  · intro hread
    have hcell : ∀ x ∈ m, x.1 < c.dataLen ∧ (x.2 = c.t0h ∨ x.2 = c.t1h) := by
      rintro ⟨k, v⟩ hmem
      obtain ⟨hne, rfl⟩ := (mem_iff_readCell hwf k v).1 hmem
      exact (hread k).resolve_left hne
    exact ⟨fun x hx => (hcell x hx).1, fun x hx => (hcell x hx).2⟩

theorem readCell_symbol_of_pulsesOk {c : Config} {m : List (Nat × Nat)} (h : pulsesOk c m = true) (k : Nat) :
    readCell 0 m k = 0 ∨ readCell 0 m k = c.t0h ∨ readCell 0 m k = c.t1h := by
  obtain ⟨-, hread⟩ := pulsesOk_iff.1 h
  exact (hread k).imp_right And.right

theorem isBuilt_iff {c : Config} {m : List (Nat × Nat)} :
    isBuilt c m = true ↔ ∀ k, k < c.dataLen → readCell 0 m k = c.t0h ∨ readCell 0 m k = c.t1h := by
  simp [isBuilt]

theorem legalAt_data {c : Config} {k v : Nat} (hk : k < c.dataLen) : legalAt c k v ↔ v = c.t0h ∨ v = c.t1h := by
  simp [legalAt, hk]

theorem legalAt_gap {c : Config} {k v : Nat} (hk : c.dataLen ≤ k) : legalAt c k v ↔ v = 0 := by
  simp [legalAt, Nat.not_lt.2 hk]

/-- The build phase leaves a legal entry in every slot (42_refresh.md R76, R77). -/
theorem legalAt_pbRead_buildPhase (s : State) {k : Nat} (hk : k < s.cfg.len) :
    legalAt s.cfg k (pbRead (buildPhase s) k) := by
  have hlt : k < (pbEntries (buildPhase s)).length := by rwa [pbEntries_length, buildPhase_cfg]
  apply frame_legal s.cfg (cbBytes s) (cbBytes_length s)
  rw [← pbEntries_buildPhase, List.getElem?_eq_getElem hlt, pbEntries_getElem]

theorem isBuilt_buildPhase (s : State) : isBuilt s.cfg (buildPhase s).pb = true := by
  rw [isBuilt_iff]
  intro k hk
  exact (legalAt_data hk).1 (legalAt_pbRead_buildPhase s (hk.trans (dataLen_lt_len _)))

theorem cellsWf_buildPhase {s : State} (h : cellsWf 0 s.pb = true) : cellsWf 0 (buildPhase s).pb = true := by
  have hpb : (if s.busy then markTorn s else s).pb = s.pb := by split <;> rfl
  rw [buildPhase, pbFill_pb, hpb]
  exact cellsWf_writeRun _ _ h

theorem pulsesOk_buildPhase {s : State} (h : pulsesOk s.cfg s.pb = true) : pulsesOk s.cfg (buildPhase s).pb = true := by
  obtain ⟨hwf, -⟩ := pulsesOk_iff.1 h
  refine pulsesOk_iff.2 ⟨cellsWf_buildPhase hwf, fun k => ?_⟩
  rcases Nat.lt_or_ge k s.cfg.dataLen with hdata | hgap
  · exact .inr ⟨hdata, isBuilt_iff.1 (isBuilt_buildPhase s) k hdata⟩
  · left
    rcases Nat.lt_or_ge k s.cfg.len with hlen | hlen
    · exact (legalAt_gap hgap).1 (legalAt_pbRead_buildPhase s hlen)
    · exact (pbRead_buildPhase_of_len_le s hlen).trans (readCell_of_pulsesOk_gap h hgap)

/-! What a tick delivers in a good state -/

namespace State.Inv

variable {s : State} (h : s.Inv)
include h

theorem tickValue_symbol : tickValue s = 0 ∨ tickValue s = s.cfg.t0h ∨ tickValue s = s.cfg.t1h := by
  rcases tickValue_cases s with hv | ⟨-, hv⟩
  · rw [hv]
    exact readCell_symbol_of_pulsesOk h.pb_ok s.pos
  · rw [hv]
    exact readCell_symbol_of_pulsesOk h.pbold_ok s.pos

/-- With a transfer in flight both buffers a tick may read are built, so it delivers a legal entry
(43_sequencer.md R90). -/
theorem legalAt_tickValue (hbusy : s.busy = true) : legalAt s.cfg s.pos (tickValue s) := by
  rcases Nat.lt_or_ge s.pos s.cfg.dataLen with hdata | hgap
  · rw [legalAt_data hdata]
    rcases tickValue_cases s with hv | ⟨htear, hv⟩
    · rw [hv]
      exact isBuilt_iff.1 (h.built_ok (.inl hbusy)) s.pos hdata
    · obtain ⟨-, -, hbuilt⟩ := h.tear_ok htear
      rw [hv]
      exact isBuilt_iff.1 hbuilt s.pos hdata
  · rw [legalAt_gap hgap]
    exact h.tickValue_gap hgap

/-- A torn read happens between the phases of a REFRESH alone, where `TORN = 1` (42_refresh.md R79). -/
theorem tear_eq_false_of_untorn (htorn : s.torn = false) : s.tear = false := by
  by_contra htear
  obtain ⟨-, hstarting, -⟩ := h.tear_ok (by simpa using htear)
  obtain ⟨htorn', -⟩ := h.starting_ok hstarting
  simp [htorn] at htorn'

theorem tear_eq_false_of_not_starting (hstarting : s.starting = false) : s.tear = false := by
  by_contra htear
  obtain ⟨-, hstarting', -⟩ := h.tear_ok (by simpa using htear)
  simp [hstarting] at hstarting'

/-! The invariant after each effect of a step -/

theorem activeTick (hs : s.halted = false) (hbusy : s.busy = true) (hpos : s.pos < s.cfg.len) :
    (activeTick s).Inv where
  cb_ok := by simpa using h.cb_ok
  pb_ok := by simpa using h.pb_ok
  pbold_ok := by simpa using h.pbold_ok
  pos_ok := by
    simp only [activeTick_pos, activeTick_cfg, activeTick_busy, Bool.and_eq_true, decide_eq_true_eq]
    omega
  idle_ok := by
    intro hidle
    have hend : s.pos + 1 = s.cfg.len := by simpa [hbusy] using hidle
    have hgap : s.cfg.dataLen ≤ s.pos := by have := dataLen_lt_len s.cfg; omega
    simp [hend, h.tickValue_gap hgap]
  ccr_ok := by simpa using h.tickValue_symbol
  built_ok := fun _ => by simpa using h.built_ok (.inl hbusy)
  tear_ok := by
    simp only [activeTick_tear, activeTick_busy, activeTick_starting, activeTick_cfg, activeTick_pbold,
      Bool.and_eq_true]
    rintro ⟨htear, hmore⟩
    obtain ⟨-, hstarting, hbuilt⟩ := h.tear_ok htear
    exact ⟨⟨hbusy, hmore⟩, hstarting, hbuilt⟩
  starting_ok := by
    simp only [activeTick_starting, activeTick_torn, activeTick_tear, activeTick_busy]
    intro hstarting
    obtain ⟨htorn, htear⟩ := h.starting_ok hstarting
    exact ⟨htorn, by rw [htear]⟩
  halted_ok := by simp [hs]

theorem startPhase (hs : s.halted = false) (hstarting : s.starting = true) : (startPhase s).Inv := by
  have hlen := dataLen_lt_len s.cfg
  obtain ⟨hle, hlt⟩ := h.pos_ok
  have hpos : (if s.busy then s.pos else 0) < s.cfg.len := by
    split
    · exact hlt ‹_›
    · omega
  rw [startPhase_eq]
  exact {
    cb_ok := h.cb_ok
    pb_ok := h.pb_ok
    pbold_ok := h.pbold_ok
    pos_ok := ⟨hpos.le, fun _ => hpos⟩
    idle_ok := by simp
    ccr_ok := h.ccr_ok
    built_ok := fun _ => h.built_ok (.inr hstarting)
    tear_ok := by simp
    starting_ok := by simp
    halted_ok := by simp [hs] }

theorem withColor (idx : BitVec 16) (red green blue : Byte) : (withColor s idx red green blue).Inv := by
  obtain ⟨hwf, hbelow⟩ := h.cb_ok
  have hcb := And.intro (cellsWf_withColor hwf idx red green blue) (cellsBelow_withColor hbelow idx red green blue)
  rw [withColor_eq]
  exact { h with cb_ok := hcb }

theorem refreshedIdle (hs : s.halted = false) : (refreshedIdle s).Inv where
  cb_ok := h.cb_ok
  pb_ok := pulsesOk_buildPhase h.pb_ok
  pbold_ok := h.pbold_ok
  pos_ok := ⟨Nat.zero_le _, fun _ => Nat.zero_lt_of_lt (dataLen_lt_len s.cfg)⟩
  idle_ok := by simp [Machine.refreshedIdle]
  ccr_ok := h.ccr_ok
  built_ok := fun _ => isBuilt_buildPhase s
  tear_ok := by simp [Machine.refreshedIdle]
  starting_ok := by simp [Machine.refreshedIdle]
  halted_ok := by simp [Machine.refreshedIdle, hs]

theorem refreshedBusy (hs : s.halted = false) (hbusy : s.busy = true) : (refreshedBusy s).Inv where
  cb_ok := h.cb_ok
  pb_ok := pulsesOk_buildPhase h.pb_ok
  pbold_ok := h.pb_ok
  pos_ok := h.pos_ok
  idle_ok := by simp [Machine.refreshedBusy, hbusy]
  ccr_ok := h.ccr_ok
  built_ok := fun _ => isBuilt_buildPhase s
  tear_ok := fun _ => ⟨hbusy, rfl, h.built_ok (.inl hbusy)⟩
  starting_ok := fun _ => ⟨rfl, hbusy.symm⟩
  halted_ok := by simp [Machine.refreshedBusy, hs]

/-- The invariant does not speak of the host's side. -/
theorem withHost (items : List HostItem) (bits : List Bool) (n : Nat) :
    State.Inv { s with host := items, choices := bits, drawn := n } :=
  { h with }

end State.Inv

theorem Effect.keeps_inv {s u t : State} (h : Effect s u t) (hs : u.halted = false) (hinv : u.Inv) : t.Inv := by
  cases h with
  | still => exact hinv
  | tick hbusy hpos => exact hinv.activeTick hs hbusy hpos
  | start hstarting => exact hinv.startPhase hs hstarting
  | store _ _ => exact hinv.withColor ..
  | refreshIdle _ _ _ => exact hinv.refreshedIdle hs
  | refreshBusy _ _ hbusy => exact hinv.refreshedBusy hs hbusy

theorem step_keeps_inv {s t : State} (hinv : s.Inv) (h : step s = .next t) : t.Inv := by
  obtain ⟨hs, items, bits, n, heffect⟩ := step_effect h
  exact heffect.keeps_inv hs (hinv.withHost items bits n)

/-- Settles O47: the invariant is kept by each of the six effects of a step. -/
theorem stepKeepsTheInvariant : Obligations.StepKeepsTheInvariant :=
  fun _ _ => step_keeps_inv

/-- A symbol is below `PERIOD`, which fits `PW` bits (00_scope.md R7, R8). -/
theorem symbol_lt_period {c : Config} {v : Nat} (h : v = 0 ∨ v = c.t0h ∨ v = c.t1h) : v < c.period ∧ v < 2 ^ c.pw := by
  obtain ⟨-, -, -, -, hpulse, hperiod, hwidth, -⟩ := config_valid c
  have hv : v < c.period := by omega
  exact ⟨hv, hv.trans_le hwidth⟩

/-- Settles O57: every entry and `CCR` is one of the three symbols. -/
theorem everyEntryIsBelowThePeriod : Obligations.EveryEntryIsBelowThePeriod := by
  intro s hinv
  obtain ⟨hccr, hccr'⟩ := symbol_lt_period hinv.ccr_ok
  exact ⟨fun k => symbol_lt_period (readCell_symbol_of_pulsesOk hinv.pb_ok k), hccr, hccr', fun k hk => hinv.pbRead_gap hk⟩

end Sys2Proof.Machine
end

section
/-! SUPPORT. What a step adds to the output: whole frames, torn or not, and the first part of the one in flight
(43_sequencer.md R90, R94), and the colours it stores (10_state.md R11). -/

namespace Sys2Proof.Machine

/-! Lists of entries -/

theorem legalRun_nil (c : Config) : LegalRun c [] := by
  intro k v hv
  simp at hv

theorem legalRun_concat {c : Config} {p : List Nat} {v : Nat} (hp : LegalRun c p) (hv : legalAt c p.length v) :
    LegalRun c (p ++ [v]) := by
  intro k x hx
  rcases Nat.lt_trichotomy k p.length with hk | rfl | hk
  · rw [List.getElem?_append_left hk] at hx
    exact hp k x hx
  · obtain rfl : v = x := by simpa using hx
    exact hv
  · rw [List.getElem?_eq_none (by simpa using hk)] at hx
    cases hx

theorem pbEntries_take_succ (s : State) (hpos : s.pos < s.cfg.len) :
    (pbEntries s).take (s.pos + 1) = (pbEntries s).take s.pos ++ [pbRead s s.pos] := by
  have hlt : s.pos < (pbEntries s).length := by rwa [pbEntries_length]
  rw [List.take_succ_eq_append_getElem hlt, pbEntries_getElem]

/-- An untorn tick lengthens by one the part of the buffer that is out (43_sequencer.md R88). -/
theorem out_concat_tickValue {s : State} {o : List Nat} (htear : s.tear = false) (hpos : s.pos < s.cfg.len)
    (hout : s.out = o ++ (pbEntries s).take s.pos) :
    s.out ++ [tickValue s] = o ++ (pbEntries s).take (s.pos + 1) := by
  rw [tickValue_of_not_tear htear, pbEntries_take_succ s hpos, hout, List.append_assoc]

theorem pbEntries_take_len (s : State) : (pbEntries s).take s.cfg.len = pbEntries s :=
  List.take_of_length_le (pbEntries_length s).le

theorem pbEntries_activeTick (s : State) : pbEntries (activeTick s) = pbEntries s :=
  pbEntries_congr (activeTick_cfg s) (activeTick_pb s)

/-! Frames of the right shape -/

/-- An entry legal for its slot lengthens the frame in flight, and the `L`-th completes it. -/
theorem State.OutShaped.activeTick {s : State} (h : s.OutShaped) (hbusy : s.busy = true)
    (hv : legalAt s.cfg s.pos (tickValue s)) : (activeTick s).OutShaped := by
  obtain ⟨fs, p, hout, hfs, hp, hlen⟩ := h
  rw [if_pos hbusy] at hlen
  have hrun : LegalRun s.cfg (p ++ [tickValue s]) := legalRun_concat hp (hlen ▸ hv)
  by_cases hend : s.pos + 1 = s.cfg.len
  · refine ⟨fs ++ [p ++ [tickValue s]], [], ?_, ?_, legalRun_nil _, ?_⟩
    · simp [hout]
    · intro f hf
      rw [activeTick_cfg]
      rcases List.mem_append.1 hf with hf | hf
      · exact hfs f hf
      · obtain rfl := List.mem_singleton.1 hf
        exact ⟨by simp [hlen, hend], hrun⟩
    · simp [hend]
  · refine ⟨fs, p ++ [tickValue s], ?_, ?_, ?_, ?_⟩
    · simp [hout]
    · simpa using hfs
    · simpa using hrun
    · simp [hlen, hbusy, hend]

/-- Neither a start nor a REFRESH moves the entries already out, nor the count of those in flight. -/
theorem Effect.keeps_outShaped {s u t : State} (h : Effect s u t) (hinv : u.Inv) (hshape : u.OutShaped) :
    t.OutShaped := by
  cases h with
  | still => exact hshape
  | tick hbusy _ => exact hshape.activeTick hbusy (hinv.legalAt_tickValue hbusy)
  | start _ =>
    rw [startPhase_eq]
    exact hshape
  | store _ _ =>
    rw [withColor_eq]
    exact hshape
  | refreshIdle _ _ hbusy =>
    obtain ⟨fs, p, hout, hfs, hp, hlen⟩ := hshape
    exact ⟨fs, p, hout, hfs, hp, by simpa [hbusy, refreshedIdle] using hlen⟩
  | refreshBusy _ _ _ => exact hshape

/-- Settles O49: an entry that is legal for its slot keeps the shape, and no other effect touches it. -/
theorem stepKeepsFramesWellShaped : Obligations.StepKeepsFramesWellShaped := by
  intro s t hinv hshape h
  obtain ⟨-, items, bits, n, heffect⟩ := step_effect h
  exact heffect.keeps_outShaped (hinv.withHost items bits n) hshape

/-! Whole frames while TORN = 0 -/

theorem State.OutWhole.activeTick {s : State} (h : s.OutWhole) (htear : s.torn = false → s.tear = false)
    (hbusy : s.busy = true) (hpos : s.pos < s.cfg.len) : (activeTick s).OutWhole := by
  intro htorn
  rw [activeTick_torn] at htorn
  obtain ⟨bs, hbs, hout, hframe⟩ := h htorn
  obtain ⟨b, hb, hentries⟩ := hframe hbusy
  rw [if_pos hbusy] at hout
  have hout' := out_concat_tickValue (htear htorn) hpos hout
  simp only [activeTick_cfg, activeTick_busy, activeTick_pos, activeTick_out, pbEntries_activeTick, hout']
  by_cases hend : s.pos + 1 = s.cfg.len
  · refine ⟨bs ++ [b], ?_, ?_, by simp [hend]⟩
    · intro x hx
      rcases List.mem_append.1 hx with hx | hx
      · exact hbs x hx
      · rwa [List.mem_singleton.1 hx]
    · rw [hend, pbEntries_take_len, hentries]
      simp
  · exact ⟨bs, hbs, by simp [hbusy, hend], fun _ => ⟨b, hb, hentries⟩⟩

theorem Effect.keeps_outWhole {s u t : State} (h : Effect s u t) (hinv : u.Inv) (hwhole : u.OutWhole) :
    t.OutWhole := by
  cases h with
  | still => exact hwhole
  | tick hbusy hpos => exact hwhole.activeTick hinv.tear_eq_false_of_untorn hbusy hpos
  | start hstarting =>
    intro htorn
    obtain ⟨htorn', -⟩ := hinv.starting_ok hstarting
    simp [htorn'] at htorn
  | store _ _ =>
    rw [withColor_eq]
    exact hwhole
  | refreshIdle _ _ hbusy =>
    intro htorn
    obtain ⟨bs, hbs, hout, -⟩ := hwhole htorn
    refine ⟨bs, hbs, ?_, fun _ => ⟨cbBytes u, cbBytes_length u, pbEntries_refreshedIdle u⟩⟩
    simpa [hbusy, refreshedIdle] using hout
  | refreshBusy _ _ _ => exact fun htorn => Bool.noConfusion htorn

/-- Settles O50: the tick of an untorn state delivers the next entry of the frame, and an idle REFRESH begins one. -/
theorem stepKeepsUntornFramesWhole : Obligations.StepKeepsUntornFramesWhole := by
  intro s t hinv hwhole h
  obtain ⟨-, items, bits, n, heffect⟩ := step_effect h
  exact heffect.keeps_outWhole (hinv.withHost items bits n) hwhole

/-! A transfer in flight -/

/-- A transfer of the entries `f` is in flight, and `OUT` holds `o` and what is delivered of `f`. -/
def Delivering (s : State) (f o : List Nat) : Prop :=
  s.busy = true ∧ s.tear = false ∧ s.starting = false ∧ s.pos < s.cfg.len ∧ pbEntries s = f ∧ s.out = o ++ f.take s.pos

/-- A tick delivers the next entry, or the last one and the transfer ends (43_sequencer.md R88, R89). -/
theorem Delivering.activeTick {s : State} {f o : List Nat} (h : Delivering s f o) :
    (Delivering (activeTick s) f o ∧ (activeTick s).pos = s.pos + 1) ∨
      ((activeTick s).busy = false ∧ (activeTick s).tear = false ∧ (activeTick s).starting = false ∧
        (activeTick s).pos = (activeTick s).cfg.len ∧ (activeTick s).out = o ++ f) := by
  obtain ⟨hbusy, htear, hstarting, hpos, rfl, hout⟩ := h
  have hout' := out_concat_tickValue htear hpos hout
  by_cases hend : s.pos + 1 = s.cfg.len
  · right
    simp [hend, htear, hstarting, hout', pbEntries_take_len]
  · left
    have hlt : s.pos + 1 < s.cfg.len := by omega
    simp [Delivering, hbusy, htear, hstarting, hend, hlt, hout', pbEntries_activeTick]

/-- Settles O34: a tick takes the next entry of `f`; of the other effects only an overlapping REFRESH would touch the
transfer, and it breaks the rule. -/
theorem transferInFlightKeepsDelivering : Obligations.TransferInFlightKeepsDelivering := by
  intro s t f o hbusy htear hstarting hpos hf hout h hrule
  obtain ⟨-, items, bits, n, heffect⟩ := step_effect h
  cases heffect with
  | still => exact .inl ⟨hbusy, htear, hstarting, hpos, hf, hout, .inl rfl⟩
  | tick _ _ =>
    have hflight : Delivering { s with host := items, choices := bits, drawn := n } f o :=
      ⟨hbusy, htear, hstarting, hpos, hf, hout⟩
    rcases hflight.activeTick with ⟨⟨hbusy', htear', hstarting', hpos', hf', hout'⟩, hnext⟩ | hended
    · exact .inl ⟨hbusy', htear', hstarting', hpos', hf', hout', .inr hnext⟩
    · exact .inr hended
  | start hstarting' => simp [hstarting] at hstarting'
  | store _ _ =>
    rw [withColor_eq]
    exact .inl ⟨hbusy, htear, hstarting, hpos, hf, hout, .inl rfl⟩
  | refreshIdle _ _ hidle => simp [hbusy] at hidle
  | refreshBusy hw hd _ => exact absurd ⟨_, _, hw, hd, hbusy⟩ hrule

/-! Colours -/

theorem Effect.keeps_colorsInImage {s u t : State} (h : Effect s u t) (hcolors : u.ColorsInImage) :
    t.ColorsInImage := by
  cases h with
  | still => exact hcolors
  | tick _ _ => exact fun a => (cbRead_congr (activeTick_cb u) a) ▸ hcolors a
  | start _ =>
    rw [startPhase_eq]
    exact hcolors
  | @store _ idx red green blue _ _ =>
    intro a
    rw [cbRead_withColor]
    split_ifs
    · exact ⟨green, rfl⟩
    · exact ⟨red, rfl⟩
    · exact ⟨blue, rfl⟩
    · exact hcolors a
    · exact hcolors a
  | refreshIdle _ _ _ => exact hcolors
  | refreshBusy _ _ _ => exact hcolors

/-- Settles O48: a SETCOLOR stores values of the gamma function, and no other effect writes `CB`. -/
theorem stepKeepsColorsInTheGammaImage : Obligations.StepKeepsColorsInTheGammaImage := by
  intro s t hcolors h
  obtain ⟨-, items, bits, n, heffect⟩ := step_effect h
  exact heffect.keeps_colorsInImage hcolors

end Sys2Proof.Machine
end

section
/-! SUPPORT. The whole-machine rules of 10_state.md: what a step can do to one register or buffer, by its six effects. -/

namespace Sys2Proof.Machine

theorem startPhase_pos (s : State) : (startPhase s).pos = if s.busy then s.pos else 0 := by rw [startPhase_eq]
@[simp] theorem startPhase_cb (s : State) : (startPhase s).cb = s.cb := by rw [startPhase_eq]
@[simp] theorem startPhase_out (s : State) : (startPhase s).out = s.out := by rw [startPhase_eq]
@[simp] theorem startPhase_ccr (s : State) : (startPhase s).ccr = s.ccr := by rw [startPhase_eq]
@[simp] theorem startPhase_halted (s : State) : (startPhase s).halted = s.halted := by rw [startPhase_eq]
@[simp] theorem startPhase_host (s : State) : (startPhase s).host = s.host := by rw [startPhase_eq]
@[simp] theorem startPhase_starting (s : State) : (startPhase s).starting = false := by rw [startPhase_eq]
/-- Honoured or dropped, a start leaves a transfer in flight (42_refresh.md R78). -/
theorem startPhase_leaves_busy (s : State) : (startPhase s).busy = true := by rw [startPhase_eq]

/-- Settles O52: no effect of a step writes the parameters or `HALTED`. -/
theorem parametersAndHaltedNeverChange : Obligations.ParametersAndHaltedNeverChange := by
  intro s t h
  obtain ⟨-, items, bits, n, heffect⟩ := step_effect h
  cases heffect with
  | still => exact ⟨rfl, rfl⟩
  | tick _ _ => exact ⟨activeTick_cfg _, activeTick_halted _⟩
  | start _ => exact ⟨startPhase_cfg _, startPhase_halted _⟩
  | store _ _ => rw [withColor_eq]; exact ⟨rfl, rfl⟩
  | refreshIdle _ _ _ => exact ⟨rfl, rfl⟩
  | refreshBusy _ _ _ => exact ⟨rfl, rfl⟩

/-- Settles O53: only a tick writes `OUT` and `CCR`, the same value to both. -/
theorem outGrowsByWhatReachesCcr : Obligations.OutGrowsByWhatReachesCcr := by
  intro s t h
  obtain ⟨-, items, bits, n, heffect⟩ := step_effect h
  cases heffect with
  | still => exact .inl ⟨rfl, rfl⟩
  | tick hbusy _ => exact .inr ⟨hbusy, by simp, activeTick_pos _⟩
  | start _ => exact .inl ⟨startPhase_out _, startPhase_ccr _⟩
  | store _ _ => rw [withColor_eq]; exact .inl ⟨rfl, rfl⟩
  | refreshIdle _ _ _ => exact .inl ⟨rfl, rfl⟩
  | refreshBusy _ _ _ => exact .inl ⟨rfl, rfl⟩

/-- Settles O54: of the six effects one writes `CB` and the two of REFRESH write `PB`; each carries its command. -/
theorem eachBufferHasOneWriter : Obligations.EachBufferHasOneWriter := by
  intro s t h
  obtain ⟨-, items, bits, n, heffect⟩ := step_effect h
  cases heffect with
  | still => exact ⟨fun hcb => absurd rfl hcb, fun hpb => absurd rfl hpb⟩
  | tick _ _ => exact ⟨fun hcb => absurd (activeTick_cb _) hcb, fun hpb => absurd (activeTick_pb _) hpb⟩
  | start _ => exact ⟨fun hcb => absurd (startPhase_cb _) hcb, fun hpb => absurd (startPhase_pb _) hpb⟩
  | store hw hd =>
    refine ⟨fun _ => ⟨_, _, _, _, _, _, hw, hd⟩, fun hpb => absurd ?_ hpb⟩
    rw [withColor_eq]
  | refreshIdle hw hd _ => exact ⟨fun hcb => absurd rfl hcb, fun _ => ⟨_, _, hw, hd⟩⟩
  | refreshBusy hw hd _ => exact ⟨fun hcb => absurd rfl hcb, fun _ => ⟨_, _, hw, hd⟩⟩

/-- Settles O55: a start phase, its own or that of an idle REFRESH, raises `BUSY`; the tick that reaches `L` clears it. -/
theorem whatRaisesAndClearsBusy : Obligations.WhatRaisesAndClearsBusy := by
  intro s t h
  obtain ⟨-, items, bits, n, heffect⟩ := step_effect h
  cases heffect with
  | still =>
    exact ⟨fun hidle hraised => absurd (hidle.symm.trans hraised) Bool.false_ne_true,
      fun hbusy hended => absurd (hended.symm.trans hbusy) Bool.false_ne_true⟩
  | tick hbusy _ =>
    replace hbusy : s.busy = true := hbusy
    refine ⟨fun hidle _ => absurd (hidle.symm.trans hbusy) Bool.false_ne_true, fun _ hended => ?_⟩
    have hend : s.pos + 1 = s.cfg.len := by simpa [hbusy] using hended
    exact ⟨hend, by simpa using hend, by simp⟩
  | start hstarting =>
    refine ⟨fun hidle _ => ⟨?_, .inl hstarting⟩, fun _ hended => ?_⟩
    · simp [startPhase_pos, hidle]
    · exact absurd (hended.symm.trans (startPhase_leaves_busy _)) Bool.false_ne_true
  | store _ _ =>
    rw [withColor_eq]
    exact ⟨fun hidle hraised => absurd (hidle.symm.trans hraised) Bool.false_ne_true,
      fun hbusy hended => absurd (hended.symm.trans hbusy) Bool.false_ne_true⟩
  | refreshIdle hw hd _ =>
    exact ⟨fun _ _ => ⟨rfl, .inr ⟨_, _, hw, hd⟩⟩, fun _ hended => Bool.noConfusion hended⟩
  | refreshBusy _ _ hbusy =>
    exact ⟨fun hidle _ => absurd (hidle.symm.trans hbusy) Bool.false_ne_true,
      fun _ hended => absurd (hended.symm.trans hbusy) Bool.false_ne_true⟩

/-- Settles O56: a tick adds 1, and a start of either kind with `BUSY = 0` restarts at 0. -/
theorem posAdvancesByOneOrRestarts : Obligations.PosAdvancesByOneOrRestarts := by
  intro s t h
  obtain ⟨-, items, bits, n, heffect⟩ := step_effect h
  cases heffect with
  | still => exact .inl rfl
  | tick hbusy _ => exact .inr (.inl ⟨hbusy, activeTick_pos _⟩)
  | start _ =>
    cases hb : s.busy with
    | true => exact .inl (by simp [startPhase_pos])
    | false => exact .inr (.inr ⟨rfl, startPhase_leaves_busy _, by simp [startPhase_pos]⟩)
  | store _ _ => rw [withColor_eq]; exact .inl rfl
  | refreshIdle _ _ hidle => exact .inr (.inr ⟨hidle, rfl, rfl⟩)
  | refreshBusy _ _ _ => exact .inl rfl

/-! At reset -/

/-- At reset the block is idle, the buffers list no cell, and nothing has been done. -/
theorem inv_resetWith (c : Config) (initOk : Bool) : (State.resetWith c initOk).Inv where
  cb_ok := ⟨rfl, rfl⟩
  pb_ok := rfl
  pbold_ok := rfl
  pos_ok := ⟨Nat.zero_le _, fun hbusy => Bool.noConfusion hbusy⟩
  idle_ok := fun _ => ⟨.inl rfl, rfl⟩
  ccr_ok := .inl rfl
  built_ok := fun h => h.elim Bool.noConfusion Bool.noConfusion
  tear_ok := fun htear => Bool.noConfusion htear
  starting_ok := fun hstarting => Bool.noConfusion hstarting
  halted_ok := fun _ => ⟨rfl, rfl, rfl, rfl, rfl, rfl⟩

theorem outShaped_resetWith (c : Config) (initOk : Bool) : (State.resetWith c initOk).OutShaped :=
  ⟨[], [], rfl, by simp, legalRun_nil _, rfl⟩

theorem outWhole_resetWith (c : Config) (initOk : Bool) : (State.resetWith c initOk).OutWhole :=
  fun _ => ⟨[], by simp, rfl, fun hbusy => Bool.noConfusion hbusy⟩

/-- Settles O46: `OUT` is empty and every byte is 0, the value of the gamma function at 0. -/
theorem resetSatisfiesTheInvariants : Obligations.ResetSatisfiesTheInvariants := by
  intro c initOk
  have hzero : gamma 0#8 = 0#8 := by decide
  exact ⟨inv_resetWith c initOk, fun a => ⟨0#8, (cbRead_resetWith c initOk a).trans hzero.symm⟩,
    outShaped_resetWith c initOk, outWhole_resetWith c initOk⟩

end Sys2Proof.Machine
end

section
/-! SUPPORT. SETCOLOR by index: the two readings of the index and its corner cases (30_encoding.md R48, 41_setcolor.md R70),
what a second SETCOLOR makes of a first (R72), and SETCOLOR beside a tick (60_exceptions.md R106, 20_memory.md R42). -/

namespace Sys2Proof.Machine

/-! The index -/

/-- Settles O6: `N` is at most 32768, so an index with its sign bit set is refused by either reading. -/
theorem signedAndUnsignedIndexAgree : Obligations.SignedAndUnsignedIndexAgree := by
  intro c idx
  obtain ⟨-, hn, -⟩ := config_valid c
  have hidx := idx.isLt
  rw [BitVec.toInt_eq_toNat_cond]
  split <;> omega

theorem validIndex_iff_toNat_lt {c : Config} {idx : BitVec 16} : validIndex c idx = true ↔ idx.toNat < c.n := by
  rw [← signedAndUnsignedIndexAgree c idx, validIndex, Bool.and_eq_true, decide_eq_true_eq, decide_eq_true_eq, ledIndex]

theorem validIndex_eq_false_of_le {c : Config} {idx : BitVec 16} (h : c.n ≤ idx.toNat) : validIndex c idx = false := by
  rw [← Bool.not_eq_true, validIndex_iff_toNat_lt]
  omega

theorem ledBase_of_toNat_lt {c : Config} {idx : BitVec 16} (h : idx.toNat < c.n) : ledBase idx = 3 * idx.toNat := by
  obtain ⟨-, hn, -⟩ := config_valid c
  exact ledBase_of_toInt (BitVec.toInt_eq_toNat_of_lt (by omega))

/-- SETCOLOR of the `i`-th LED: it completes, and the three bytes from `3*i` on take the corrected colours. -/
theorem exec_setcolor_stores {s : State} {idx : BitVec 16} {i : Nat} (hs : s.halted = false) (hidx : idx.toNat = i)
    (hi : i < s.cfg.n) (red green blue : Byte) :
    ∃ t, exec (.setcolor idx red green blue) s = .next t ∧ cbRead t (3 * i) = gamma green ∧
      cbRead t (3 * i + 1) = gamma red ∧ cbRead t (3 * i + 2) = gamma blue := by
  subst hidx
  refine ⟨_, exec_setcolor_eq hs idx red green blue, ?_⟩
  simp [cbRead_withColor, validIndex_iff_toNat_lt.2 hi, ledBase_of_toNat_lt hi]

/-- Settles O16: `N` and the three extreme words are at least `N` as unsigned numbers; 0 and `N - 1` are below it. -/
theorem setcolorIndexCornerCases : Obligations.SetcolorIndexCornerCases := by
  intro s red green blue hs
  obtain ⟨hn, hmax, -⟩ := config_valid s.cfg
  have hvalue : ∀ i, i < 65536 → (BitVec.ofNat 16 i).toNat = i := fun i hi => by
    rw [BitVec.toNat_ofNat, Nat.mod_eq_of_lt hi]
  have hrefused : ∀ i, s.cfg.n ≤ i → i < 65536 → exec (.setcolor (BitVec.ofNat 16 i) red green blue) s = .next s :=
    fun i hle hi => exec_setcolor_invalid hs (validIndex_eq_false_of_le (hle.trans_eq (hvalue i hi).symm)) ..
  refine ⟨hrefused s.cfg.n le_rfl (by omega), hrefused 0xFFFF (by omega) (by omega),
    hrefused 0x8000 (by omega) (by omega), fun hlt => hrefused 0x7FFF (by omega) (by omega), ?_, ?_⟩
  · exact exec_setcolor_stores (i := 0) hs rfl hn red green blue
  · have hgreen : 3 * s.cfg.n - 3 = 3 * (s.cfg.n - 1) := by omega
    have hred : 3 * s.cfg.n - 2 = 3 * (s.cfg.n - 1) + 1 := by omega
    have hblue : 3 * s.cfg.n - 1 = 3 * (s.cfg.n - 1) + 2 := by omega
    rw [hgreen, hred, hblue]
    exact exec_setcolor_stores hs (hvalue _ (by omega)) (by omega) red green blue

/-! The bytes SETCOLOR leaves alone -/

theorem cbRead_withColor_of_outside {s : State} {idx : BitVec 16} {red green blue : Byte} {a : Nat}
    (h : ¬ (validIndex s.cfg idx = true ∧ ledBase idx ≤ a ∧ a ≤ ledBase idx + 2)) :
    cbRead (withColor s idx red green blue) a = cbRead s a := by
  rw [cbRead_withColor]
  split
  · have hout : ¬ (ledBase idx ≤ a ∧ a ≤ ledBase idx + 2) := fun ha => h ⟨‹_›, ha⟩
    rw [if_neg (by omega), if_neg (by omega), if_neg (by omega)]
  · rfl

/-- Settles O17: SETCOLOR is an update of `CB` alone, by three writes inside the strip or by none. -/
theorem setcolorFrame : Obligations.SetcolorFrame := by
  intro s t idx red green blue h
  obtain ⟨-, rfl⟩ := exec_setcolor_next h
  refine ⟨withColor_eq .., fun a ha => cbRead_withColor_of_outside ha, fun k => pbRead_congr ?_ k,
    fun hbelow => cellsBelow_withColor hbelow ..⟩
  rw [withColor_eq]

/-! Two SETCOLORs -/

@[simp] theorem withColor_cfg (s : State) (idx : BitVec 16) (red green blue : Byte) :
    (withColor s idx red green blue).cfg = s.cfg := by rw [withColor_eq]

@[simp] theorem withColor_halted (s : State) (idx : BitVec 16) (red green blue : Byte) :
    (withColor s idx red green blue).halted = s.halted := by rw [withColor_eq]

/-- Two updates of `CB` in canonical form that read alike are one state. -/
theorem state_eq_of_cbRead {s t u : State} (ht : t = { s with cb := t.cb }) (hu : u = { s with cb := u.cb })
    (hwft : cellsWf 0#8 t.cb = true) (hwfu : cellsWf 0#8 u.cb = true) (hread : ∀ a, cbRead t a = cbRead u a) :
    t = u := by
  rw [ht, hu, cells_ext hwft hwfu hread]

theorem withColor_withColor_eq (s : State) (i j : BitVec 16) (r g b r' g' b' : Byte) :
    withColor (withColor s i r g b) j r' g' b' = { s with cb := (withColor (withColor s i r g b) j r' g' b').cb } := by
  rw [withColor_eq (withColor s i r g b) j, withColor_eq s i]

/-- The later colour of one LED replaces the earlier (41_setcolor.md R72). -/
theorem withColor_withColor_same {s : State} (hwf : cellsWf 0#8 s.cb = true) (idx : BitVec 16)
    (red green blue red' green' blue' : Byte) :
    withColor (withColor s idx red green blue) idx red' green' blue' = withColor s idx red' green' blue' := by
  refine state_eq_of_cbRead (withColor_withColor_eq ..) (withColor_eq ..)
    (cellsWf_withColor (cellsWf_withColor hwf ..) ..) (cellsWf_withColor hwf ..) fun a => ?_
  simp only [cbRead_withColor, withColor_cfg]
  split_ifs <;> rfl

/-- The bytes of two LEDs of the strip are apart. -/
theorem ledBase_apart {c : Config} {i j : BitVec 16} (hi : validIndex c i = true) (hj : validIndex c j = true)
    (hne : i ≠ j) : ledBase i + 2 < ledBase j ∨ ledBase j + 2 < ledBase i := by
  rw [validIndex_iff_toNat_lt] at hi hj
  rw [ledBase_of_toNat_lt hi, ledBase_of_toNat_lt hj]
  have : i.toNat ≠ j.toNat := fun h => hne (BitVec.eq_of_toNat_eq h)
  omega

/-- Colours of different LEDs commute (41_setcolor.md R72). -/
theorem withColor_comm {s : State} (hwf : cellsWf 0#8 s.cb = true) {i j : BitVec 16} (hne : i ≠ j)
    (r g b r' g' b' : Byte) :
    withColor (withColor s i r g b) j r' g' b' = withColor (withColor s j r' g' b') i r g b := by
  refine state_eq_of_cbRead (withColor_withColor_eq ..) (withColor_withColor_eq ..)
    (cellsWf_withColor (cellsWf_withColor hwf ..) ..) (cellsWf_withColor (cellsWf_withColor hwf ..) ..) fun a => ?_
  simp only [cbRead_withColor, withColor_cfg]
  by_cases hi : validIndex s.cfg i = true
  · by_cases hj : validIndex s.cfg j = true
    · have hapart := ledBase_apart hi hj hne
      simp only [hi, hj, if_true]
      grind
    · simp only [hj, Bool.false_eq_true, if_false]
  · simp only [hi, Bool.false_eq_true, if_false]

/-- Settles O18: both claims are `withColor_withColor_same`, the second with the same operands. -/
theorem laterSetcolorReplacesEarlier : Obligations.LaterSetcolorReplacesEarlier := by
  intro s t u v idx red green blue red' green' blue' hwf ht hu hv
  obtain ⟨hs, rfl⟩ := exec_setcolor_next ht
  obtain ⟨hs', rfl⟩ := exec_setcolor_next hu
  obtain ⟨-, rfl⟩ := exec_setcolor_next hv
  refine ⟨withColor_withColor_same hwf .., ?_⟩
  rw [exec_setcolor_eq hs', withColor_withColor_same hwf]

/-- Settles O19: `withColor_comm`, each SETCOLOR running where the block is not halted. -/
theorem setcolorsToDifferentLedsCommute : Obligations.SetcolorsToDifferentLedsCommute := by
  intro s t t' i j r g b r' g' b' hne hwf ht ht'
  obtain ⟨hs, rfl⟩ := exec_setcolor_next ht
  obtain ⟨-, rfl⟩ := exec_setcolor_next ht'
  refine ⟨_, exec_setcolor_eq ((withColor_halted ..).trans hs) .., ?_⟩
  rw [exec_setcolor_eq ((withColor_halted ..).trans hs), withColor_comm hwf hne]

/-! Beside a tick -/

/-- A tick neither reads nor writes the Color Buffer and the host's list (20_memory.md R42). -/
theorem tick_with_cb_host {s t : State} (h : tick s = .next t) (cells : List Host.Cell) (items : List HostItem) :
    tick { s with cb := cells, host := items } = .next { t with cb := cells, host := items } := by
  obtain ⟨hs, ⟨hidle, rfl⟩ | ⟨hbusy, hpos, rfl⟩⟩ := tick_next h
  · exact tick_idle hs hidle
  · have hvalue : tickValue { s with cb := cells, host := items } = tickValue s :=
      tickValue_congr rfl rfl rfl rfl rfl rfl
    have hactive : tick { s with cb := cells, host := items } = .next (activeTick { s with cb := cells, host := items }) :=
      tick_active hs hbusy hpos
    rw [hactive, activeTick_eq, activeTick_eq s, hvalue]

theorem tick_leaves {s t : State} (h : tick s = .next t) :
    t.cfg = s.cfg ∧ t.cb = s.cb ∧ t.pb = s.pb ∧ t.halted = s.halted ∧ t.host = s.host := by
  obtain ⟨-, ⟨-, rfl⟩ | ⟨-, -, rfl⟩⟩ := tick_next h
  · exact ⟨rfl, rfl, rfl, rfl, rfl⟩
  · simp

theorem tick_with_cb {s t : State} (h : tick s = .next t) (cells : List Host.Cell) :
    tick { s with cb := cells } = .next { t with cb := cells } := by
  obtain ⟨-, -, -, -, hhost⟩ := tick_leaves h
  exact (tick_with_cb_host h cells s.host).trans (by rw [← hhost])

theorem tick_with_host {s t : State} (h : tick s = .next t) (items : List HostItem) :
    tick { s with host := items } = .next { t with host := items } := by
  obtain ⟨-, hcb, -⟩ := tick_leaves h
  exact (tick_with_cb_host h s.cb items).trans (by rw [← hcb])

/-- Settles O32: an update of `CB` and the tick act on different parts of the state. -/
theorem sequencerIgnoresTheColorBuffer : Obligations.SequencerIgnoresTheColorBuffer := by
  intro s t cells h
  obtain ⟨-, hcb, hpb, -, -⟩ := tick_leaves h
  exact ⟨hcb, hpb, tick_with_cb h cells⟩

/-- Settles O20: SETCOLOR is an update of `CB`, which the tick carries along, and stores the same bytes after it. -/
theorem setcolorAndTickCommute : Obligations.SetcolorAndTickCommute := by
  intro s t idx red green blue h
  obtain ⟨hs, -⟩ := tick_next h
  obtain ⟨hcfg, hcb, -, hhalted, -⟩ := tick_leaves h
  refine ⟨_, _, exec_setcolor_eq hs idx red green blue, ?_, exec_setcolor_eq (hhalted.trans hs) idx red green blue⟩
  rw [withColor_eq s, withColor_eq t, withColor_cb_congr hcfg hcb]
  exact tick_with_cb h _

end Sys2Proof.Machine
end

section
/-! SUPPORT. What REFRESH leaves (42_refresh.md R75 to R81), and that a frame says its bytes (30_encoding.md R53). -/

namespace Sys2Proof.Machine

/-- Settles O22: an idle REFRESH is the update `refreshedIdle`. -/
theorem refreshWhileIdleStartsTheTransfer : Obligations.RefreshWhileIdleStartsTheTransfer :=
  fun s hs hidle => ⟨refreshedIdle s, exec_refresh_idle hs hidle, rfl, pbEntries_refreshedIdle s⟩

/-- Settles O23: an overlapping REFRESH is the update `refreshedBusy`. -/
theorem refreshWhileBusyTearsTheFrame : Obligations.RefreshWhileBusyTearsTheFrame :=
  fun s hs hbusy => ⟨refreshedBusy s, exec_refresh_busy hs hbusy, rfl, pbEntries_refreshedBusy s⟩

/-- Settles O24: either update writes the fields named and, in `PB`, the first `L` entries. -/
theorem refreshFrame : Obligations.RefreshFrame := by
  intro s t h
  have houtside : ∀ k, s.cfg.len ≤ k → pbRead t k = pbRead s k := fun k hk =>
    (pbRead_congr (execRefresh_pb h) k).trans (pbRead_buildPhase_of_len_le s hk)
  obtain ⟨-, ⟨hidle, rfl⟩ | ⟨hbusy, rfl⟩⟩ := exec_refresh_next h
  · exact ⟨rfl, fun htorn => htorn, fun _ => ⟨rfl, rfl⟩, fun hbusy => absurd (hidle.symm.trans hbusy) Bool.false_ne_true,
      rfl, houtside⟩
  · exact ⟨rfl, fun _ => rfl, fun hidle => absurd (hidle.symm.trans hbusy) Bool.false_ne_true, fun _ => rfl, hbusy,
      houtside⟩

/-! A Color Buffer of one value -/

theorem cbBytes_eq_replicate {s : State} {v : Byte} (h : ∀ a, a < 3 * s.cfg.n → cbRead s a = v) :
    cbBytes s = List.replicate (3 * s.cfg.n) v := by
  rw [List.eq_replicate_iff]
  refine ⟨cbBytes_length s, fun x hx => ?_⟩
  obtain ⟨a, ha, rfl⟩ := List.mem_map.1 hx
  exact h a (List.mem_range.1 ha)

/-- Bytes whose bits are all alike give slots that are all alike. -/
theorem dataSlots_replicate {c : Config} {v : Byte} {bit : Bool} (h : bitsMsbFirst v = List.replicate 8 bit) (m : Nat) :
    dataSlots c (List.replicate m v) = List.replicate (8 * m) (pulse c bit) := by
  induction m with
  | zero => rfl
  | succ m ih =>
    rw [List.replicate_succ, dataSlots_cons, ih, h, List.map_replicate, List.replicate_append_replicate]
    congr 1
    omega

theorem pbEntries_of_uniform {s t : State} {v : Byte} {bit : Bool} (h : exec .refresh s = .next t)
    (hbits : bitsMsbFirst v = List.replicate 8 bit) (hread : ∀ a, a < 3 * s.cfg.n → cbRead s a = v) :
    pbEntries t = List.replicate (24 * s.cfg.n) (pulse s.cfg bit) ++ List.replicate s.cfg.gap 0 := by
  have hcount : 8 * (3 * s.cfg.n) = 24 * s.cfg.n := by omega
  rw [execRefresh_pbEntries h, cbBytes_eq_replicate hread, frame, dataSlots_replicate hbits, hcount]

/-- Settles O26: the bits of 0 are all 0 and those of 255 all 1. -/
theorem refreshOfUniformColors : Obligations.RefreshOfUniformColors :=
  fun _ _ h => ⟨pbEntries_of_uniform (bit := false) h (by decide), pbEntries_of_uniform (bit := true) h (by decide)⟩

/-! A frame decoded back -/

theorem pulse_eq_t1h_iff (c : Config) (bit : Bool) : pulse c bit = c.t1h ↔ bit = true := by
  obtain ⟨-, -, -, -, hlt, -⟩ := config_valid c
  cases bit with
  | false => simp [pulse, hlt.ne]
  | true => simp [pulse]

theorem pulse_injective (c : Config) : Function.Injective (pulse c) := by
  intro x y h
  rw [Bool.eq_iff_iff, ← pulse_eq_t1h_iff c, ← pulse_eq_t1h_iff c, h]

theorem bitsMsbFirst_getElem? (v : Byte) {b : Nat} (hb : b < 8) : (bitsMsbFirst v)[7 - b]? = some (v.getLsbD b) := by
  have hlt : 7 - b < (bitsMsbFirst v).length := by rw [bitsMsbFirst_length]; omega
  have hbit : 7 - (7 - b) = b := by omega
  rw [List.getElem?_eq_getElem hlt, bitsMsbFirst_getElem, hbit]

theorem bitsMsbFirst_injective : Function.Injective bitsMsbFirst := by
  intro v w h
  apply BitVec.eq_of_getLsbD_eq
  intro b hb
  apply Option.some.inj
  rw [← bitsMsbFirst_getElem? v hb, ← bitsMsbFirst_getElem? w hb, h]

theorem dataSlots_injective (c : Config) : Function.Injective (dataSlots c) := by
  intro bytes
  induction bytes with
  | nil =>
    intro bytes' h
    have hlen := congrArg List.length h
    simp only [dataSlots_length, List.length_nil] at hlen
    exact (List.eq_nil_of_length_eq_zero (by omega)).symm
  | cons v bytes ih =>
    intro bytes' h
    cases bytes' with
    | nil => simp [dataSlots_cons, bitsMsbFirst] at h
    | cons w bytes' =>
      rw [dataSlots_cons, dataSlots_cons] at h
      obtain ⟨hfirst, hrest⟩ := List.append_inj h (by simp)
      rw [bitsMsbFirst_injective ((pulse_injective c).list_map hfirst), ih hrest]

/-- Settles O14: the pulses differ and are not 0; the gap cut off, each block of eight slots is one byte. -/
theorem frameCanBeDecodedBack : Obligations.FrameCanBeDecodedBack := by
  intro c
  obtain ⟨-, -, -, ht0h, hlt, -⟩ := config_valid c
  refine ⟨?_, ?_, ?_, fun b b' _ _ h => dataSlots_injective c (List.append_cancel_right h)⟩
  · simp [symbolOf]
  · rw [symbolOf, if_neg (by omega), if_pos rfl]
  · rw [symbolOf, if_neg (by omega), if_neg (by omega), if_pos rfl]

end Sys2Proof.Machine
end

section
/-! SUPPORT. The next event by the head of the host's list, the encoder standing idle or between two phases
(30_encoding.md R56, 42_refresh.md R75, 60_exceptions.md R106), and the step that it gives. -/

namespace Sys2Proof.Machine

/-! The step of an event -/

theorem step_of_tick {s u : State} (h : nextEvent s = .tick u) : step s = tick u := by rw [step, h]
theorem step_of_start {s u : State} (h : nextEvent s = .start u) : step s = .next (startPhase u) := by rw [step, h]
theorem step_of_bench {s u : State} (h : nextEvent s = .bench u) : step s = .next u := by rw [step, h]
theorem step_of_issue {s u : State} {w : CommandWord} (h : nextEvent s = .issue w u) : step s = issue w u := by
  rw [step, h]

theorem issue_command {w : CommandWord} {i : Instr} (h : decode w = .command i) (s : State) : issue w s = exec i s := by
  rw [issue, h]

theorem issue_reserved {w : CommandWord} {why : Reserved} (h : decode w = .reserved why) (s : State) :
    issue w s = .refused (.reservedWord why) := by
  rw [issue, h]

/-! Between the phases of a REFRESH -/

section Starting

variable {s : State} (hs : s.halted = false) (hstarting : s.starting = true)
include hs hstarting

theorem nextEvent_starting : nextEvent s = tickOr s .start := by simp [nextEvent, hs, hstarting]

theorem nextEvent_starting_idle (hidle : s.busy = false) : nextEvent s = .start s := by
  simp [nextEvent_starting hs hstarting, tickOr, hidle]

theorem nextEvent_starting_busy (hbusy : s.busy = true) {b : Bool} {bs : List Bool} (hc : s.choices = b :: bs) :
    nextEvent s = if b then .tick (dropChoice s) else .start (dropChoice s) := by
  simp [nextEvent_starting hs hstarting, tickOr, hbusy, nextChoice_cons hc]

/-- An honoured start request (42_refresh.md R78). -/
theorem step_starting_idle (hidle : s.busy = false) :
    step s = .next { s with busy := true, pos := 0, tear := false, starting := false } := by
  rw [step_of_start (nextEvent_starting_idle hs hstarting hidle), startPhase_eq]
  simp [hidle]

/-- A start request dropped, the choice letting the encoder go first (42_refresh.md R78). -/
theorem step_starting_dropped (hbusy : s.busy = true) {bs : List Bool} (hc : s.choices = false :: bs) :
    step s = .next { s with tear := false, starting := false, choices := bs, drawn := s.drawn + 1 } := by
  rw [step_of_start (nextEvent_starting_busy hs hstarting hbusy hc), startPhase_eq]
  simp [hbusy, dropChoice, hc]

theorem step_starting_tick (hbusy : s.busy = true) {bs : List Bool} (hc : s.choices = true :: bs) :
    step s = tick (dropChoice s) :=
  step_of_tick (nextEvent_starting_busy hs hstarting hbusy hc)

end Starting

/-! The encoder idle -/

section Idle

variable {s : State} (hs : s.halted = false) (hstarting : s.starting = false)
include hs hstarting

theorem nextEvent_hostEvent : nextEvent s = hostEvent s := by simp [nextEvent, hs, hstarting]

theorem nextEvent_nil (hh : s.host = []) : nextEvent s = .tick s := by
  simp [nextEvent_hostEvent hs hstarting, hostEvent, hh]

theorem nextEvent_command {w : CommandWord} {rest : List HostItem} (hh : s.host = .command w :: rest) :
    nextEvent s = tickOr s (fun t => .issue w { t with host := rest }) := by
  simp [nextEvent_hostEvent hs hstarting, hostEvent, hh]

theorem nextEvent_command_idle {w : CommandWord} {rest : List HostItem} (hh : s.host = .command w :: rest)
    (hidle : s.busy = false) : nextEvent s = .issue w { s with host := rest } := by
  simp [nextEvent_command hs hstarting hh, tickOr, hidle]

theorem nextEvent_command_busy {w : CommandWord} {rest : List HostItem} (hh : s.host = .command w :: rest)
    (hbusy : s.busy = true) :
    nextEvent s =
      if nextChoice s then .tick (dropChoice s) else .issue w { dropChoice s with host := rest } := by
  simp [nextEvent_command hs hstarting hh, tickOr, hbusy]

theorem nextEvent_waitIdle {rest : List HostItem} (hh : s.host = .waitIdle :: rest) :
    nextEvent s = if s.busy then .tick s else .bench { s with host := rest } := by
  simp [nextEvent_hostEvent hs hstarting, hostEvent, hh]

theorem nextEvent_ticks_succ {n : Nat} {rest : List HostItem} (hh : s.host = .ticks (n + 1) :: rest) :
    nextEvent s = .tick { s with host := .ticks n :: rest } := by
  simp [nextEvent_hostEvent hs hstarting, hostEvent, hh]

theorem nextEvent_ticks_zero_command {w : CommandWord} {rest : List HostItem}
    (hh : s.host = .ticks 0 :: .command w :: rest) : nextEvent s = .issue w { s with host := rest } := by
  simp [nextEvent_hostEvent hs hstarting, hostEvent, hh]

theorem nextEvent_ticks_zero_bench {rest : List HostItem} (hh : s.host = .ticks 0 :: rest)
    (hrest : ∀ w l, rest ≠ .command w :: l) : nextEvent s = .bench { s with host := rest } := by
  rw [nextEvent_hostEvent hs hstarting, hostEvent, hh]
  split <;> simp_all

/-- With the list empty or under `WAITIDLE` a transfer in flight takes its ticks undisturbed. -/
theorem step_eq_tick_of_waiting (hwait : s.host = [] ∨ ∃ rest, s.host = .waitIdle :: rest) (hbusy : s.busy = true) :
    step s = tick s := by
  rcases hwait with hh | ⟨rest, hh⟩
  · exact step_of_tick (nextEvent_nil hs hstarting hh)
  · exact step_of_tick ((nextEvent_waitIdle hs hstarting hh).trans (if_pos hbusy))

end Idle

/-! The statements about one step -/

/-- Settles O4: the reserved words by their opcode byte and the rest, and the refusal in the two places where the host
presents a word with no tick before it. -/
theorem reservedWordsAreRefused : Obligations.ReservedWordsAreRefused := by
  intro w
  constructor
  · rw [exists_decode_reserved_iff, ne_eq, ne_eq, ne_eq, opField_eq_one_iff, opField_eq_two_iff, zeroField_eq_zero_iff]
  · intro s why rest hd
    refine ⟨issue_reserved hd s, fun hs hstarting hplace => ?_⟩
    rcases hplace with ⟨hh, hidle⟩ | hh
    · rw [step_of_issue (nextEvent_command_idle hs hstarting hh hidle), issue_reserved hd]
    · rw [step_of_issue (nextEvent_ticks_zero_command hs hstarting hh), issue_reserved hd]

/-- Settles O27: the two start events, between the phases of a REFRESH. -/
theorem startIsHonouredOrDropped : Obligations.StartIsHonouredOrDropped :=
  fun _ hs hstarting => ⟨step_starting_idle hs hstarting, fun _ hbusy hc => step_starting_dropped hs hstarting hbusy hc⟩

/-- After `TICKS 0` a command is executed with no tick before it. -/
theorem step_ticks_zero_command {s : State} {w : CommandWord} {i : Instr} {rest : List HostItem} (hs : s.halted = false)
    (hstarting : s.starting = false) (hh : s.host = .ticks 0 :: .command w :: rest) (hd : decode w = .command i) :
    step s = exec i { s with host := rest } := by
  rw [step_of_issue (nextEvent_ticks_zero_command hs hstarting hh), issue_command hd]

theorem step_command_idle {s : State} {w : CommandWord} {i : Instr} {rest : List HostItem} (hs : s.halted = false)
    (hstarting : s.starting = false) (hh : s.host = .command w :: rest) (hd : decode w = .command i)
    (hidle : s.busy = false) : step s = exec i { s with host := rest } := by
  rw [step_of_issue (nextEvent_command_idle hs hstarting hh hidle), issue_command hd]

/-- Settles O36: the three places of a command, with the free choice in hand where there is one. -/
theorem stepRunsTheDecodedCommand : Obligations.StepRunsTheDecodedCommand := by
  intro s w i rest hs hstarting hd
  refine ⟨fun hh hidle => step_command_idle hs hstarting hh hd hidle,
    fun hh => step_ticks_zero_command hs hstarting hh hd, fun b cs hh hbusy hc => ?_⟩
  have hevent := nextEvent_command_busy hs hstarting hh hbusy
  rw [nextChoice_cons hc] at hevent
  cases b with
  | true =>
    rw [step_of_tick hevent, dropChoice, hc]
    rfl
  | false =>
    rw [step_of_issue hevent, issue_command hd, dropChoice, hc]
    rfl

theorem tableWord_encode (i : Instr) : tableWord 48 (encode i).toNat = encode i := by
  rw [tableWord, Nat.mod_eq_of_lt (encode i).isLt, BitVec.ofNat_toNat, BitVec.setWidth_eq]

/-- Settles O37: the placed word stands after `TICKS 0`, and decodes to its command. -/
theorem placedWordRunsNext : Obligations.PlacedWordRunsNext := by
  intro s i hs
  rw [State.withFetchWord, tableWord_encode]
  exact step_ticks_zero_command hs rfl rfl (decode_encode i)

/-- Settles O39: the event under `WAITIDLE` is a tick or the end of the directive, as `BUSY` says. -/
theorem waitIdleHoldsTheHost : Obligations.WaitIdleHoldsTheHost := by
  intro s rest hs hstarting hh
  constructor
  · intro hbusy
    exact step_eq_tick_of_waiting hs hstarting (.inr ⟨rest, hh⟩) hbusy
  · intro hidle
    have hnot : ¬ s.busy = true := by simp [hidle]
    exact step_of_bench ((nextEvent_waitIdle hs hstarting hh).trans (if_neg hnot))

theorem unlessHalted_of_halted {s : State} (h : s.halted = true) (run : Host.Outcome State Fault Refusal) :
    unlessHalted s run = .fault .halted :=
  if_pos h

/-- Settles O40: command and tick are guarded by `HALTED`, and no event is enabled. -/
theorem haltedIsStuck : Obligations.HaltedIsStuck := by
  intro s i hs
  have hevent : nextEvent s = .stuck := if_pos hs
  refine ⟨?_, unlessHalted_of_halted hs _, by rw [step, hevent]⟩
  cases i with
  | setcolor idx red green blue => exact unlessHalted_of_halted hs _
  | refresh => exact unlessHalted_of_halted hs _

end Sys2Proof.Machine
end

section
/-! SUPPORT. Parameters, the gamma table, the output stage and the read-back port (00_scope.md R7 and R8, 40_gamma.md R64
and R65, 43_sequencer.md R93, 60_exceptions.md R112). -/

namespace Sys2Proof.Machine

/-! Parameters -/

theorem exists_build_iff (p : Params) : (∃ c, Config.build p = some c ∧ c.toParams = p) ↔ p.Valid := by
  by_cases hp : p.Valid
  · exact ⟨fun _ => hp, fun _ => ⟨⟨p, hp⟩, by rw [Config.build, dif_pos hp], rfl⟩⟩
  · simp [Config.build, hp]

/-- Settles O8: `Config.build` asks for `Params.Valid`, which is the list of constraints. -/
theorem configurationsMeetTheConstraints : Obligations.ConfigurationsMeetTheConstraints := by
  intro p
  rw [exists_build_iff]
  constructor
  · rintro ⟨⟨hn, hmax⟩, hgap, ⟨ht0h, hlt, hperiod⟩, hwidth, hlen⟩
    exact ⟨hlt, hperiod, hn, hgap, ht0h, hwidth, hmax, hlen, rfl⟩
  · rintro ⟨hlt, hperiod, hn, hgap, ht0h, hwidth, hmax, hlen, -⟩
    exact ⟨⟨hn, hmax⟩, hgap, ⟨ht0h, hlt, hperiod⟩, hwidth, hlen⟩

/-! The gamma table -/

/-- Settles O10: a table of 256 entries, compared entry by entry. -/
theorem gammaTableProperties : Obligations.GammaTableProperties :=
  ⟨by decide, by decide, by decide +kernel, by decide +kernel⟩

/-- Settles O11: the 256 entries searched for 128 and for bit 7, and counted without repetition. -/
theorem gammaImageLacks128 : Obligations.GammaImageLacks128 :=
  ⟨by decide +kernel, by decide +kernel⟩

/-! The output stage -/

theorem waveform_highFirst {c : Config} {v : Nat} (hv : v < c.period) :
    waveform .highFirst c v = some (List.replicate v true ++ List.replicate (c.period - v) false) := by
  simp [waveform, OutputStage.highFirst, hv]

/-- Settles O58: the waveform is `v` high ticks and then the rest of the period low. -/
theorem lineIsHighForCcrTicks : Obligations.LineIsHighForCcrTicks := by
  intro c v
  constructor
  · intro hv
    refine ⟨_, waveform_highFirst hv, ?_, ?_, ?_⟩
    · rw [List.length_append, List.length_replicate, List.length_replicate]
      omega
    · intro j hj
      rw [List.getElem?_append_left (by simpa using hj), List.getElem?_replicate, if_pos hj]
    · intro j hlo hhi
      rw [List.getElem?_append_right (by simpa using hlo), List.getElem?_replicate, List.length_replicate,
        if_pos (by omega)]
  · intro hv o
    exact if_neg (Nat.not_lt.2 hv)

/-! The read-back port -/

/-- Settles O59: the port answers exactly inside the two address spaces. -/
theorem readBackReachesEveryLocation : Obligations.ReadBackReachesEveryLocation :=
  fun _ => ⟨fun _ ha => if_pos ha, fun _ ha => if_neg (Nat.not_lt.2 ha), fun _ hk => if_pos hk,
    fun _ hk => if_neg (Nat.not_lt.2 hk), rfl⟩

end Sys2Proof.Machine
end

section
/-! SUPPORT. Runs of several steps: ticks under `TICKS n`, a transfer left to itself, and the torn window of an overlapping
REFRESH (30_encoding.md R56, 43_sequencer.md R90 to R94, 42_refresh.md R79). -/

namespace Sys2Proof.Machine

/-! Steps and ticks in a row -/

theorem stepN_succ {s t : State} (h : step s = .next t) (k : Nat) : stepN (k + 1) s = stepN k t := by
  rw [stepN, h]

theorem stepN_one (s : State) : stepN 1 s = step s := by
  rw [stepN]
  cases step s <;> rfl

theorem stepN_add {m : Nat} {s t : State} (h : stepN m s = .next t) (n : Nat) : stepN (m + n) s = stepN n t := by
  induction m generalizing s with
  | zero =>
    cases h
    rw [Nat.zero_add]
  | succ m ih =>
    rw [Nat.add_right_comm]
    cases hstep : step s with
    | next u =>
      rw [stepN_succ hstep] at h
      rw [stepN_succ hstep, ih h]
    | fault f => simp [stepN, hstep] at h
    | refused r => simp [stepN, hstep] at h

theorem tickN_one (s : State) : tickN 1 s = tick s := by
  rw [tickN]
  cases tick s <;> rfl

theorem tickN_succ {s t : State} (h : tick s = .next t) (k : Nat) : tickN (k + 1) s = tickN k t := by
  rw [tickN, h]

theorem tickN_succ_next {n : Nat} {s u : State} (h : tickN (n + 1) s = .next u) :
    ∃ t, tick s = .next t ∧ tickN n t = .next u := by
  rw [tickN] at h
  split at h
  · exact ⟨_, ‹_›, h⟩
  · cases h
  · cases h

theorem tickN_succ_last {k : Nat} {s t : State} (h : tickN k s = .next t) : tickN (k + 1) s = tick t := by
  induction k generalizing s with
  | zero =>
    cases h
    exact tickN_one _
  | succ k ih =>
    obtain ⟨u, hu, hrest⟩ := tickN_succ_next h
    rw [tickN_succ hu, ih hrest]

/-! Ticks under TICKS n -/

theorem tick_starting {s t : State} (h : tick s = .next t) : t.starting = s.starting := by
  obtain ⟨-, ⟨-, rfl⟩ | ⟨-, -, rfl⟩⟩ := tick_next h
  · rfl
  · exact activeTick_starting s

theorem tickN_leaves {n : Nat} {s u : State} (h : tickN n s = .next u) :
    u.halted = s.halted ∧ u.starting = s.starting := by
  induction n generalizing s with
  | zero =>
    cases h
    exact ⟨rfl, rfl⟩
  | succ n ih =>
    obtain ⟨t, ht, hrest⟩ := tickN_succ_next h
    obtain ⟨-, -, -, hhalted, -⟩ := tick_leaves ht
    obtain ⟨hhalted', hstarting'⟩ := ih hrest
    exact ⟨hhalted'.trans hhalted, hstarting'.trans (tick_starting ht)⟩

theorem tickN_with_host {n : Nat} {s u : State} (h : tickN n s = .next u) (items : List HostItem) :
    tickN n { s with host := items } = .next { u with host := items } := by
  induction n generalizing s with
  | zero =>
    cases h
    rfl
  | succ n ih =>
    obtain ⟨t, ht, hrest⟩ := tickN_succ_next h
    rw [tickN_succ (tick_with_host ht items), ih hrest]

/-- The steps under `TICKS n` are `n` ticks, which count the directive down (30_encoding.md R56). -/
theorem stepN_ticks {n : Nat} {s u : State} {rest : List HostItem} (hs : s.halted = false)
    (hstarting : s.starting = false) (hh : s.host = .ticks n :: rest) (h : tickN n s = .next u) :
    stepN n s = .next { u with host := .ticks 0 :: rest } := by
  induction n generalizing s u with
  | zero =>
    cases h
    rw [stepN, ← hh]
  | succ n ih =>
    obtain ⟨t, ht, hrest⟩ := tickN_succ_next h
    obtain ⟨-, -, -, hhalted, -⟩ := tick_leaves ht
    have hstep : step s = .next { t with host := .ticks n :: rest } :=
      (step_of_tick (nextEvent_ticks_succ hs hstarting hh)).trans (tick_with_host ht _)
    rw [stepN_succ hstep]
    exact ih (u := { u with host := .ticks n :: rest }) (hhalted.trans hs) ((tick_starting ht).trans hstarting) rfl
      (tickN_with_host hrest _)

/-- Settles O38: `n` ticks count the directive down to `TICKS 0`, after which the command is taken at once. -/
theorem ticksDirectivePinsTheTicks : Obligations.TicksDirectivePinsTheTicks := by
  intro n s u w i rest hs hstarting hh hd h
  obtain ⟨hhalted, hstarting'⟩ := tickN_leaves h
  rw [stepN_add (stepN_ticks hs hstarting hh h) 1, stepN_one]
  exact step_ticks_zero_command (hhalted.trans hs) (hstarting'.trans hstarting) rfl hd

/-! A transfer left to itself -/

/-- `s` after `k` ticks of an untorn transfer (43_sequencer.md R88, R89). -/
def delivered (s : State) (k : Nat) : State :=
  { s with
    ccr := if k = 0 then s.ccr else pbRead s (s.pos + k - 1)
    out := s.out ++ ((pbEntries s).drop s.pos).take k
    pos := s.pos + k
    busy := decide (s.pos + k < s.cfg.len) }

theorem delivered_zero {s : State} (hbusy : s.busy = decide (s.pos < s.cfg.len)) : delivered s 0 = s := by
  simp [delivered, ← hbusy]

section Untorn

variable {s : State} (hs : s.halted = false) (htear : s.tear = false)
include hs htear

theorem tick_delivered {k : Nat} (hk : s.pos + k < s.cfg.len) :
    tick (delivered s k) = .next (delivered s (k + 1)) := by
  have hlt : k < ((pbEntries s).drop s.pos).length := by rw [List.length_drop, pbEntries_length]; omega
  have hout : ((pbEntries s).drop s.pos).take (k + 1) = ((pbEntries s).drop s.pos).take k ++ [pbRead s (s.pos + k)] := by
    rw [List.take_succ_eq_append_getElem hlt, List.getElem_drop, pbEntries_getElem]
  have hmore : decide (s.pos + (k + 1) < s.cfg.len) = decide (s.pos + k + 1 ≠ s.cfg.len) :=
    decide_eq_decide.2 (by omega)
  rw [tickDeliversTheEntryAtPos (delivered s k) hs (decide_eq_true hk) htear hk]
  simp only [delivered, hout, hmore, ← List.append_assoc, Nat.add_one_ne_zero, if_false]
  rfl

theorem tickN_delivered (hbusy : s.busy = decide (s.pos < s.cfg.len)) {k : Nat} (hk : s.pos + k ≤ s.cfg.len) :
    tickN k s = .next (delivered s k) := by
  induction k with
  | zero => rw [tickN, delivered_zero hbusy]
  | succ k ih => rw [tickN_succ_last (ih (by omega)), tick_delivered hs htear (by omega)]

/-- While the host issues nothing the steps of a transfer are its ticks (43_sequencer.md R91). -/
theorem stepN_delivered (hbusy : s.busy = decide (s.pos < s.cfg.len)) (hstarting : s.starting = false)
    (hwait : s.host = [] ∨ ∃ rest, s.host = .waitIdle :: rest) {k : Nat} (hk : s.pos + k ≤ s.cfg.len) :
    stepN k s = .next (delivered s k) := by
  induction k with
  | zero => rw [stepN, delivered_zero hbusy]
  | succ k ih =>
    have hlt : s.pos + k < s.cfg.len := by omega
    have hstep : step (delivered s k) = tick (delivered s k) :=
      step_eq_tick_of_waiting hs hstarting hwait (decide_eq_true hlt)
    rw [stepN_add (ih (by omega)) 1, stepN_one, hstep, tick_delivered hs htear hlt]

end Untorn

/-- What is out after `k` ticks from an idle REFRESH is the first part of its frame. -/
theorem out_delivered_refreshedIdle (s : State) (k : Nat) :
    (delivered (refreshedIdle s) k).out = s.out ++ (frame s.cfg (cbBytes s)).take k := by
  rw [delivered, pbEntries_refreshedIdle]
  rfl

/-- The last entry of a frame is one of its gap, so the line ends low (30_encoding.md R54). -/
theorem ccr_delivered_refreshedIdle {s : State} (hs : s.halted = false) (hidle : s.busy = false) :
    (delivered (refreshedIdle s) s.cfg.len).ccr = 0 := by
  have hlen := dataLen_lt_len s.cfg
  have hne : s.cfg.len ≠ 0 := by omega
  have hlast : (refreshedIdle s).pos + s.cfg.len - 1 = s.cfg.len - 1 := by rw [refreshedIdle, Nat.zero_add]
  have hlo : 24 * s.cfg.n ≤ s.cfg.len - 1 := by rw [Params.dataLen] at hlen; omega
  rw [delivered, if_neg hne, hlast]
  exact execRefresh_pbRead_gap (exec_refresh_idle hs hidle) hlo (by omega)

theorem refreshedIdle_busy_eq (s : State) :
    (refreshedIdle s).busy = decide ((refreshedIdle s).pos < (refreshedIdle s).cfg.len) :=
  (decide_eq_true (Nat.zero_lt_of_lt (dataLen_lt_len s.cfg))).symm

/-- Settles O33: `k` ticks from the started transfer, at position 0. -/
theorem cleanTransferDeliversOneFrame : Obligations.CleanTransferDeliversOneFrame := by
  intro s hs hidle
  refine ⟨refreshedIdle s, exec_refresh_idle hs hidle, fun k hk => ?_⟩
  have hzero : 0 + k = k := Nat.zero_add k
  refine ⟨_, tickN_delivered (s := refreshedIdle s) hs rfl (refreshedIdle_busy_eq s) (hzero.trans_le hk),
    out_delivered_refreshedIdle s k, hzero, congrArg (fun j => decide (j < s.cfg.len)) hzero, rfl, ?_⟩
  rintro rfl
  exact ccr_delivered_refreshedIdle hs hidle

/-- Settles O35: with nothing to issue the steps left are ticks, and the transfer is in flight before the last. -/
theorem transferRunsToCompletion : Obligations.TransferRunsToCompletion := by
  intro s hinv hbusy hstarting hh
  have hs := hinv.running_of_busy hbusy
  have htear := hinv.tear_eq_false_of_not_starting hstarting
  have hpos : s.pos < s.cfg.len := hinv.pos_ok.2 hbusy
  have hiff : s.busy = decide (s.pos < s.cfg.len) := hbusy.trans (decide_eq_true hpos).symm
  have hend : s.pos + (s.cfg.len - s.pos) = s.cfg.len := by omega
  have hrun := fun k (hk : s.pos + k ≤ s.cfg.len) => stepN_delivered hs htear hiff hstarting (.inl hh) hk
  refine ⟨_, hrun _ hend.le, ?_, hend, hh, fun k hk => ⟨_, hrun k (by omega), ?_⟩⟩
  · exact decide_eq_false (by omega)
  · exact decide_eq_true (by omega)

/-- Settles O41: one step starts the transfer, and under `WAITIDLE` the next `L` are its ticks. -/
theorem refreshThenWaitDeliversTheFrame : Obligations.RefreshThenWaitDeliversTheFrame := by
  intro s rest hs hidle hstarting hh
  have hstep : step s = .next (refreshedIdle { s with host := .waitIdle :: rest }) :=
    (step_command_idle hs hstarting hh (decode_encode _) hidle).trans (exec_refresh_idle hs hidle)
  have hrun := stepN_delivered (s := refreshedIdle { s with host := .waitIdle :: rest }) hs rfl
    (refreshedIdle_busy_eq _) rfl (.inr ⟨rest, rfl⟩) (Nat.zero_add s.cfg.len).le
  refine ⟨_, (stepN_succ hstep _).trans hrun, ?_, decide_eq_false (by simp [refreshedIdle]), rfl, rfl, rfl,
    ccr_delivered_refreshedIdle (s := { s with host := .waitIdle :: rest }) hs hidle, rfl⟩
  have hlen : (frame s.cfg (cbBytes s)).length = s.cfg.len := frame_length_eq _ _ (cbBytes_length s)
  have hall : (frame s.cfg (cbBytes s)).take s.cfg.len = frame s.cfg (cbBytes s) := List.take_of_length_le hlen.le
  exact (out_delivered_refreshedIdle { s with host := .waitIdle :: rest } s.cfg.len).trans (congrArg _ hall)

/-! The torn window -/

/-- What a torn read delivers under the choice `b` (43_sequencer.md R90). -/
def tornEntry (s : State) (k : Nat) (b : Bool) : Nat := if b then pboldRead s k else pbRead s k

theorem tickValue_torn {s : State} (htear : s.tear = true) : tickValue s = tornEntry s s.pos (nextChoice s) :=
  if_pos htear

theorem tick_torn_window {s : State} (hs : s.halted = false) (hbusy : s.busy = true) (htear : s.tear = true)
    (hpos : s.pos < s.cfg.len) :
    tick s = .next { s with
      ccr := tickValue s
      out := s.out ++ [tickValue s]
      pos := s.pos + 1
      busy := decide (s.pos + 1 ≠ s.cfg.len)
      tear := decide (s.pos + 1 ≠ s.cfg.len)
      choices := s.choices.tail
      drawn := s.drawn + 1 } := by
  rw [tick_active hs hbusy hpos, activeTick_eq]
  simp [hbusy, htear]

/-- Settles O30: the value is that of the two entries which the free choice names. -/
theorem tornTickDeliversOldOrNew : Obligations.TornTickDeliversOldOrNew := by
  intro s hs hbusy htear hpos
  refine ⟨tickValue s, ?_, ?_, tick_torn_window hs hbusy htear hpos⟩
  · exact (tickValue_cases s).symm.imp_left And.right
  · intro b cs hc
    rw [tickValue_torn htear, nextChoice_cons hc, tornEntry]

/-- `s` after ticks of the torn window that delivered `entries`, `BUSY` and `TEAR` lasting as long as the transfer does;
`bits` and `n` are the oracle stream and the count of choices then, `v` is `CCR`. -/
def afterTorn (s : State) (entries : List Nat) (bits : List Bool) (v n : Nat) : State :=
  { s with
    ccr := v
    out := s.out ++ entries
    pos := s.pos + entries.length
    busy := decide (s.pos + entries.length < s.cfg.len)
    tear := decide (s.pos + entries.length < s.cfg.len)
    choices := bits
    drawn := n }

theorem afterTorn_nil {s : State} (hbusy : s.busy = decide (s.pos < s.cfg.len))
    (htear : s.tear = decide (s.pos < s.cfg.len)) : afterTorn s [] s.choices s.ccr s.drawn = s := by
  cases s
  simp_all [afterTorn]

theorem afterTorn_afterTorn (s : State) (entries entries' : List Nat) (bits bits' : List Bool) (v v' n n' : Nat) :
    afterTorn (afterTorn s entries bits v n) entries' bits' v' n' = afterTorn s (entries ++ entries') bits' v' n' := by
  simp [afterTorn, Nat.add_assoc]

/-- The entries that the choices `bits` take from position `POS` on. -/
def tornEntries (s : State) (bits : List Bool) : List Nat := bits.mapIdx (fun j b => tornEntry s (s.pos + j) b)

@[simp] theorem tornEntries_length (s : State) (bits : List Bool) : (tornEntries s bits).length = bits.length :=
  List.length_mapIdx

theorem tornEntries_cons (s : State) (x : Nat) (b : Bool) (bits bs : List Bool) (v n : Nat) :
    tornEntries s (b :: bits) = tornEntry s s.pos b :: tornEntries (afterTorn s [x] bs v n) bits := by
  simp only [tornEntries, List.mapIdx_cons, Nat.add_zero, afterTorn, List.length_singleton, Nat.add_assoc, Nat.add_comm 1]
  rfl

/-- The step of the torn window whose choices let a tick come first and the bit `b` choose its value. -/
theorem step_torn_window {s : State} {b : Bool} {bs : List Bool} (hs : s.halted = false) (hstarting : s.starting = true)
    (hbusy : s.busy = true) (htear : s.tear = true) (hpos : s.pos < s.cfg.len) (hc : s.choices = true :: b :: bs) :
    step s = .next (afterTorn s [tornEntry s s.pos b] bs (tornEntry s s.pos b) (s.drawn + 2)) := by
  have hhead : (dropChoice s).choices = b :: bs := by rw [dropChoice_choices, hc, List.tail_cons]
  have hvalue : tickValue (dropChoice s) = tornEntry s s.pos b := by
    rw [tickValue_torn (s := dropChoice s) htear, nextChoice_cons hhead]
    rfl
  have hmore : decide (s.pos + 1 < s.cfg.len) = decide (s.pos + 1 ≠ s.cfg.len) := decide_eq_decide.2 (by omega)
  rw [step_starting_tick hs hstarting hbusy hc, tick_torn_window (s := dropChoice s) hs hbusy htear hpos, hvalue, hhead]
  simp only [afterTorn, List.length_singleton, hmore]
  rfl

/-- The ticks of the torn window, one for each of `bits`. -/
theorem stepN_torn_window {s : State} {bits cs : List Bool} (hs : s.halted = false) (hstarting : s.starting = true)
    (hbusy : s.busy = decide (s.pos < s.cfg.len)) (htear : s.tear = decide (s.pos < s.cfg.len))
    (hlen : s.pos + bits.length ≤ s.cfg.len) (hc : s.choices = bits.flatMap (fun b => [true, b]) ++ cs) :
    ∃ v n, stepN bits.length s = .next (afterTorn s (tornEntries s bits) cs v n) := by
  induction bits generalizing s with
  | nil =>
    have hcs : s.choices = cs := hc
    subst hcs
    exact ⟨s.ccr, s.drawn, by rw [tornEntries, List.mapIdx_nil, afterTorn_nil hbusy htear]; rfl⟩
  | cons b bits ih =>
    rw [List.length_cons] at hlen
    have hpos : s.pos < s.cfg.len := by omega
    have hstep := step_torn_window hs hstarting (hbusy.trans (decide_eq_true hpos)) (htear.trans (decide_eq_true hpos))
      hpos hc
    obtain ⟨v, n, hrun⟩ := ih (s := afterTorn s [tornEntry s s.pos b] _ _ _) hs hstarting rfl rfl
      ((Nat.add_right_comm ..).trans_le hlen) rfl
    refine ⟨v, n, ?_⟩
    rw [List.length_cons, stepN_succ hstep, tornEntries_cons]
    exact hrun.trans (congrArg _ (afterTorn_afterTorn ..))

/-- Settles O43: after the ticks of `bits` the transfer is in flight, and the next choice lets the encoder go first. -/
theorem everyMixtureThenDroppedStart : Obligations.EveryMixtureThenDroppedStart := by
  intro s bits cs hs hbusy htear hstarting hlen hc
  have hpos : decide (s.pos < s.cfg.len) = true := decide_eq_true (by omega)
  obtain ⟨v, n, hrun⟩ := stepN_torn_window hs hstarting (hbusy.trans hpos.symm) (htear.trans hpos.symm) hlen.le hc
  have hflight : (afterTorn s (tornEntries s bits) (false :: cs) v n).busy = true := by simpa [afterTorn] using hlen
  have hstep := step_starting_dropped (s := afterTorn s (tornEntries s bits) (false :: cs) v n) hs hstarting hflight rfl
  refine ⟨_, (stepN_add hrun 1).trans ((stepN_one _).trans hstep), rfl, hflight, ?_, rfl, rfl, rfl, rfl⟩
  simp [afterTorn]

/-- Settles O44: after the ticks of `bits` the transfer has ended, so the start request is honoured. -/
theorem everyMixtureThenHonouredStart : Obligations.EveryMixtureThenHonouredStart := by
  intro s bits cs hs hbusy htear hstarting hpos hlen hc
  have hpos' : decide (s.pos < s.cfg.len) = true := decide_eq_true hpos
  obtain ⟨v, n, hrun⟩ := stepN_torn_window hs hstarting (hbusy.trans hpos'.symm) (htear.trans hpos'.symm) hlen.le hc
  have hended : (afterTorn s (tornEntries s bits) cs v n).busy = false := by simpa [afterTorn] using hlen.ge
  have hstep := step_starting_idle (s := afterTorn s (tornEntries s bits) cs v n) hs hstarting hended
  exact ⟨_, (stepN_add hrun 1).trans ((stepN_one _).trans hstep), rfl, rfl, rfl, rfl, rfl, rfl, rfl⟩

end Sys2Proof.Machine
end

section
/-! SUPPORT. Every run comes to its end (70_reset_and_hazards.md R127): each step uses up a part of the host's list, ends a
REFRESH, or shortens the transfer in flight, in this order of weight. -/

namespace Sys2Proof.Machine

/-! What is left to do -/

/-- The steps an item of the host's list takes of its own, free ticks apart (30_encoding.md R56). -/
def itemLoad : HostItem → Nat
  | .command _ => 1
  | .waitIdle => 1
  | .ticks n => n + 1

def hostLoad (items : List HostItem) : Nat := (items.map itemLoad).sum

@[simp] theorem hostLoad_cons (i : HostItem) (items : List HostItem) :
    hostLoad (i :: items) = itemLoad i + hostLoad items := by
  simp [hostLoad]

/-- A part of the list `items` is used up in `items'`, which presents no new word. -/
def UsesUp (items items' : List HostItem) : Prop :=
  hostLoad items' < hostLoad items ∧ ∀ w, HostItem.command w ∈ items' → HostItem.command w ∈ items

/-- The ticks left of the transfer in flight. -/
def ticksLeft (s : State) : Nat := if s.busy then s.cfg.len - s.pos else 0

/-- What a step lowers, the first number weighing more: the host's list and the start phase under way, then the ticks
left. -/
def runRank (s : State) : Nat × Nat := (2 * hostLoad s.host + s.starting.toNat, ticksLeft s)

/-! The next event makes progress -/

/-- How the event of `s`, which takes place in `u`, brings the run on. -/
inductive Progress (s u : State) : Event → Prop where
  | wait (hbusy : u.busy = true) (hhost : u.host = s.host) : Progress s u (.tick u)
  | counted (hused : UsesUp s.host u.host) : Progress s u (.tick u)
  | start (hstarting : s.starting = true) (hhost : u.host = s.host) : Progress s u (.start u)
  | bench (hused : UsesUp s.host u.host) : Progress s u (.bench u)
  | issue {w : CommandWord} (hw : HostItem.command w ∈ s.host) (hused : UsesUp s.host u.host) : Progress s u (.issue w u)

theorem usesUp_cons (i : HostItem) (items : List HostItem) : UsesUp (i :: items) items := by
  refine ⟨?_, fun w hw => List.mem_cons_of_mem _ hw⟩
  cases i <;> simp [itemLoad]

theorem UsesUp.cons {items items' : List HostItem} (h : UsesUp items items') (i : HostItem) :
    UsesUp (i :: items) items' := by
  obtain ⟨hload, hwords⟩ := h
  exact ⟨by rw [hostLoad_cons]; omega, fun w hw => List.mem_cons_of_mem _ (hwords w hw)⟩

theorem usesUp_ticks (n : Nat) (items : List HostItem) : UsesUp (.ticks (n + 1) :: items) (.ticks n :: items) := by
  refine ⟨by simp [itemLoad], fun w hw => ?_⟩
  simpa using hw

theorem nextEvent_progress_starting {s : State} (hs : s.halted = false) (hstarting : s.starting = true) :
    ∃ u, SameBlock s u ∧ Progress s u (nextEvent s) := by
  rw [nextEvent_starting hs hstarting, tickOr]
  split
  · split
    · exact ⟨dropChoice s, rfl, .wait ‹_› rfl⟩
    · exact ⟨dropChoice s, rfl, .start hstarting rfl⟩
  · exact ⟨s, rfl, .start hstarting rfl⟩

/-- With the encoder idle and something left to do, by the head of the host's list. -/
theorem nextEvent_progress_idle {s : State} (hs : s.halted = false) (hstarting : s.starting = false)
    (hleft : s.host = [] → s.busy = true) : ∃ u, SameBlock s u ∧ Progress s u (nextEvent s) := by
  cases hh : s.host with
  | nil =>
    rw [nextEvent_nil hs hstarting hh]
    exact ⟨s, rfl, .wait (hleft hh) rfl⟩
  | cons item rest =>
    cases item with
    | command w =>
      have hused : UsesUp s.host rest := hh ▸ usesUp_cons ..
      have hw : HostItem.command w ∈ s.host := hh ▸ List.mem_cons_self
      rw [nextEvent_command hs hstarting hh, tickOr]
      split
      · split
        · exact ⟨dropChoice s, rfl, .wait ‹_› rfl⟩
        · exact ⟨{ dropChoice s with host := rest }, rfl, .issue hw hused⟩
      · exact ⟨{ s with host := rest }, rfl, .issue hw hused⟩
    | waitIdle =>
      have hused : UsesUp s.host rest := hh ▸ usesUp_cons ..
      rw [nextEvent_waitIdle hs hstarting hh]
      split
      · exact ⟨s, rfl, .wait ‹_› rfl⟩
      · exact ⟨{ s with host := rest }, rfl, .bench hused⟩
    | ticks n =>
      cases n with
      | succ n =>
        rw [nextEvent_ticks_succ hs hstarting hh]
        exact ⟨{ s with host := .ticks n :: rest }, rfl, .counted (hh ▸ usesUp_ticks ..)⟩
      | zero =>
        by_cases hrest : ∃ w l, rest = .command w :: l
        · obtain ⟨w, l, rfl⟩ := hrest
          rw [nextEvent_ticks_zero_command hs hstarting hh]
          exact ⟨{ s with host := l }, rfl, .issue (hh ▸ by simp) (hh ▸ (usesUp_cons ..).cons _)⟩
        · rw [nextEvent_ticks_zero_bench hs hstarting hh fun w l h => hrest ⟨w, l, h⟩]
          exact ⟨{ s with host := rest }, rfl, .bench (hh ▸ usesUp_cons ..)⟩

theorem nextEvent_progress {s : State} (hs : s.halted = false) (hover : ¬ s.Over) :
    ∃ u, SameBlock s u ∧ Progress s u (nextEvent s) := by
  cases hstarting : s.starting with
  | true => exact nextEvent_progress_starting hs hstarting
  | false =>
    refine nextEvent_progress_idle hs hstarting fun hh => ?_
    by_contra hidle
    exact hover ⟨hh, by simpa using hidle, hstarting⟩

/-! The step takes place and lowers the rank -/

theorem exec_runs {s : State} (hs : s.halted = false) (i : Instr) : ∃ t, exec i s = .next t ∧ t.host = s.host := by
  cases i with
  | setcolor idx red green blue => exact ⟨_, exec_setcolor_eq hs .., by rw [withColor_eq]⟩
  | refresh =>
    cases hb : s.busy with
    | false => exact ⟨_, exec_refresh_idle hs hb, rfl⟩
    | true => exact ⟨_, exec_refresh_busy hs hb, rfl⟩

theorem State.Inv.tick_runs {s : State} (h : s.Inv) (hs : s.halted = false) : ∃ t, tick s = .next t := by
  cases hb : s.busy with
  | false => exact ⟨s, tick_idle hs hb⟩
  | true =>
    obtain ⟨-, hlt⟩ := h.pos_ok
    exact ⟨_, tick_active hs hb (hlt hb)⟩

/-- A tick of a transfer leaves one tick fewer. -/
theorem ticksLeft_activeTick_lt {s : State} (hbusy : s.busy = true) (hpos : s.pos < s.cfg.len) :
    ticksLeft (activeTick s) < ticksLeft s := by
  simp only [ticksLeft, activeTick_busy, activeTick_cfg, activeTick_pos, hbusy, if_true]
  split <;> omega

/-- The lexicographic order of the rank. -/
def RankLt (s t : State) : Prop := Prod.Lex (· < ·) (· < ·) (runRank s) (runRank t)

theorem rankLt_of_load {s t : State} (h : 2 * hostLoad s.host + s.starting.toNat < 2 * hostLoad t.host + t.starting.toNat) :
    RankLt s t :=
  .left _ _ h

theorem rankLt_of_ticks {s t : State} (hhost : s.host = t.host) (hstarting : s.starting = t.starting)
    (h : ticksLeft s < ticksLeft t) : RankLt s t := by
  rw [RankLt, runRank, runRank, hhost, hstarting]
  exact .right _ h

/-- From a good state that is not over, a step is taken, the words left are still commands, and less is left to do. -/
theorem step_progress {s : State} (hinv : s.Inv) (hs : s.halted = false) (hwords : s.HostDecodes) (hover : ¬ s.Over) :
    ∃ t, step s = .next t ∧ t.HostDecodes ∧ RankLt t s := by
  obtain ⟨u, hu, hprogress⟩ := nextEvent_progress hs hover
  have hinvu : u.Inv := hu ▸ hinv.withHost ..
  have hsu : u.halted = false := by rw [hu]; exact hs
  have hstu : u.starting = s.starting := by rw [hu]
  have hleft : ticksLeft u = ticksLeft s := by rw [hu]; rfl
  generalize he : nextEvent s = e at hprogress
  cases hprogress with
  | wait hbusy hhost =>
    have hpos := hinvu.pos_ok.2 hbusy
    refine ⟨activeTick u, (step_of_tick he).trans (tick_active hsu hbusy hpos), ?_, ?_⟩
    · rwa [State.HostDecodes, activeTick_host, hhost]
    · exact rankLt_of_ticks ((activeTick_host u).trans hhost) ((activeTick_starting u).trans hstu)
        (hleft ▸ ticksLeft_activeTick_lt hbusy hpos)
  | counted hused =>
    obtain ⟨hload, hmem⟩ := hused
    obtain ⟨t, ht⟩ := hinvu.tick_runs hsu
    obtain ⟨-, -, -, -, hhost⟩ := tick_leaves ht
    refine ⟨t, (step_of_tick he).trans ht, fun w hw => hwords w (hmem w (hhost ▸ hw)), rankLt_of_load ?_⟩
    rw [hhost, (tick_starting ht).trans hstu]
    omega
  | start hstarting hhost =>
    refine ⟨startPhase u, step_of_start he, ?_, rankLt_of_load ?_⟩
    · rwa [State.HostDecodes, startPhase_host, hhost]
    · rw [startPhase_host, startPhase_starting, hhost, hstarting]
      simp
  | bench hused =>
    obtain ⟨hload, hmem⟩ := hused
    refine ⟨u, step_of_bench he, fun w hw => hwords w (hmem w hw), rankLt_of_load ?_⟩
    rw [hstu]
    omega
  | @issue w hw hused =>
    obtain ⟨hload, hmem⟩ := hused
    obtain ⟨i, hd⟩ := hwords w hw
    obtain ⟨t, ht, hhost⟩ := exec_runs hsu i
    refine ⟨t, (step_of_issue he).trans ((issue_command hd u).trans ht),
      fun w hw => hwords w (hmem w (hhost ▸ hw)), rankLt_of_load ?_⟩
    have hone := Bool.toNat_le t.starting
    rw [hhost]
    omega

theorem rankLt_wellFounded : WellFounded RankLt :=
  InvImage.wf runRank (WellFounded.prod_lex Nat.lt_wfRel.wf Nat.lt_wfRel.wf)

/-- Settles O42: by induction on the rank, each step leading to a good state of less rank, until the run is over. -/
theorem everyRunComesToItsEnd : Obligations.EveryRunComesToItsEnd := by
  intro s
  induction s using rankLt_wellFounded.induction with
  | _ s ih =>
    intro hinv hs hwords
    by_cases hover : s.Over
    · exact ⟨0, s, rfl, hover⟩
    · obtain ⟨t, hstep, hwords', hlt⟩ := step_progress hinv hs hwords hover
      obtain ⟨-, hhalted⟩ := parametersAndHaltedNeverChange s t hstep
      obtain ⟨k, r, hrun, hend⟩ := ih t hlt (step_keeps_inv hinv hstep) (hhalted.trans hs) hwords'
      exact ⟨k + 1, r, (stepN_succ hstep k).trans hrun, hend⟩

end Sys2Proof.Machine
end
